-- ==== Sys2Proof/Word.lean ====
section
/-! DEFINITION. The two word types of the block: host registers are 32 bits (R7), wire and record
bytes are 8 bits (R22, R56). -/

namespace Sys2Proof

/-- A host register or a command word (R7, R47). -/
abbrev Word := BitVec 32

/-- A byte of a record, of a host buffer or of the wire (R22, R56). -/
abbrev Byte := BitVec 8

end Sys2Proof
end

