-- ==== Sys2Proof/Syntax.lean ====
section
/-! DEFINITION. The fifteen commands of the block (R48; one constructor per row of the opcode table). -/

namespace Sys2Proof

/-- The SLOTM1 field of a command word: slot number minus one (R10, R47).  Slot `s` of the spec
(1..16) is the index `s - 1`. -/
abbrev SlotIx := Fin 16

/-- The spec's slot number, 1..16, of a SLOTM1 value (R47: slot = SLOTM1 + 1). -/
def SlotIx.number (i : SlotIx) : Nat := i.val + 1

/-- A command (R48).  Only CSUM, RENC and RDEC name a slot; every value of the slot field is a
legal slot, so every term of this type is well-formed (the legality of a command WORD is
`legalWord` in WellFormed.lean). -/
inductive Instr where
  | fenc
  | fdec
  | stepf
  | tenc
  | tdec
  | genc
  | gdec
  | csum (slot : SlotIx)
  | amask
  | renc (slot : SlotIx)
  | rdec (slot : SlotIx)
  | ienc
  | idec
  | rdall
  | wrall
  deriving DecidableEq, Repr

/-- The mnemonic of a command, as R48 and the opcode table write it. -/
def Instr.mnemonic : Instr → String
  | .fenc => "FENC"
  | .fdec => "FDEC"
  | .stepf => "STEPF"
  | .tenc => "TENC"
  | .tdec => "TDEC"
  | .genc => "GENC"
  | .gdec => "GDEC"
  | .csum _ => "CSUM"
  | .amask => "AMASK"
  | .renc _ => "RENC"
  | .rdec _ => "RDEC"
  | .ienc => "IENC"
  | .idec => "IDEC"
  | .rdall => "RDALL"
  | .wrall => "WRALL"

/-- Assembler text of a command: the mnemonic, followed for CSUM, RENC and RDEC by the slot number
in decimal (R52). -/
def Instr.assembly (i : Instr) : String :=
  match i with
  | .csum s | .renc s | .rdec s => i.mnemonic ++ " " ++ toString s.number
  | _ => i.mnemonic

end Sys2Proof
end

