-- ==== Sys2Proof/WellFormed.lean ====
section
/-! DEFINITION. What is well formed: a command word (R47, R49) and a HOST access (R28, R34).  A term
of `Instr` is well formed by its type.  The constraints on the block's parameters stand beside
them, in Config.lean (`Params.wellFormed`). -/

namespace Sys2Proof

/-- The operation codes of the map of R48; every other OP value is illegal. -/
def opcodeMap : List (BitVec 8) :=
  [0x01, 0x02, 0x03, 0x04, 0x05, 0x06, 0x07, 0x08, 0x09, 0x10, 0x11, 0x12, 0x13, 0x20, 0x21]

/-- The operation codes whose SLOTM1 field names a slot: CSUM, RENC and RDEC (R47, R49). -/
def slotOpcodes : List (BitVec 8) := [0x08, 0x10, 0x11]

/-- OP = CMD[7:0] (R47). -/
def wordOp (w : Word) : BitVec 8 := w.extractLsb' 0 8

/-- SLOTM1 = CMD[11:8] (R47). -/
def wordSlot (w : Word) : BitVec 4 := w.extractLsb' 8 4

/-- The reserved bits CMD[31:12] (R47). -/
def wordReserved (w : Word) : BitVec 20 := w.extractLsb' 12 20

/-- A command word is legal when OP is in the map of R48, CMD[31:12] = 0, and SLOTM1 = 0 for every
OP other than CSUM, RENC and RDEC (R49). -/
def legalWord (w : Word) : Bool :=
  opcodeMap.contains (wordOp w) && wordReserved w == 0 &&
    (wordSlot w == 0 || slotOpcodes.contains (wordOp w))

/-- HOST accesses are 1, 2 or 4 bytes wide (R34). -/
def accessWidthOk (n : Nat) : Bool := n == 1 || n == 2 || n == 4

/-- An access of `n` bytes at `a` is naturally aligned (R34). -/
def accessAligned (n a : Nat) : Bool := a % n == 0

/-- The host space is the addresses 0x000..0x3FF (R28). -/
def accessInSpace (n a : Nat) : Bool := a + n ≤ 0x400

/-- A HOST access that the block accepts: a width of 1, 2 or 4 bytes, naturally aligned, inside the
host space (R28, R34). -/
def accessWellFormed (n a : Nat) : Bool :=
  accessWidthOk n && accessAligned n a && accessInSpace n a

end Sys2Proof
end

