-- ==== Sys2Proof/Config.lean ====
section
/-! DEFINITION. What an implementation fixes and what the spec leaves free: the fixed constants (R4),
the parameter inputs (R5, R6, R8) with their constraints, and the free draws, which are opaque:
nothing can be proved of their values. -/

namespace Sys2Proof.Config

/-- NSLOTS (R4). -/
def nSlots : Nat := 16

/-- REC_LEN (R4). -/
def recLen : Nat := 32

/-- STRIDE: device address distance between slots (R4). -/
def stride : Nat := 0x20

/-- CONF: the confirmation constant (R4). -/
def conf : Byte := 0x06

/-- IDENT_LEN: identity block length (R4). -/
def identLen : Nat := 40

/-- PROG_REQ_LEN (R4). -/
def progReqLen : Nat := 7

/-- K1_LEGACY: the first-layer key of the legacy variant (R4). -/
def k1Legacy : Byte := 0x00

/-- EMPTY: the empty-slot marker byte (R4). -/
def emptyMarker : Byte := 0xFF

/-- TEMPLATE_LEN (R4). -/
def templateLen : Nat := 9

/-- READ_ACK_MODE (R140). -/
inductive ReadAckMode where
  | sendThenCheck
  | checkOnly
  deriving DecidableEq, Repr

/-- An entry `(t_i, p_i, q_i)` of TONE_TABLE_A (R75). -/
structure ToneEntry where
  tone : BitVec 16
  p : Byte
  q : Byte
  deriving DecidableEq, Repr

/-- The two table bytes of an entry (R75). -/
def ToneEntry.bytes (e : ToneEntry) : List Byte := [e.p, e.q]

/-- The parameter inputs of the block (R5, R6, R8), whose values the spec leaves OPEN: the model
takes them as arguments, held in the state and written by no step. -/
structure Params where
  /-- PROG_REQ, 7 bytes -/
  progReq : List Byte
  /-- LISTEN_CODE -/
  listenCode : Byte
  /-- VER_REQ -/
  verReq : Byte
  /-- CMD_READ -/
  cmdRead : Byte
  /-- CMD_WRITE -/
  cmdWrite : Byte
  /-- CMD_SELECT, which no frame uses (R57) -/
  cmdSelect : Byte
  /-- END_CODE -/
  endCode : Byte
  /-- K2, the second-layer key -/
  k2 : Byte
  /-- BASE_ADDR -/
  baseAddr : BitVec 16
  /-- MARKER -/
  marker : Byte
  /-- RESP_LEN, 0..255 -/
  respLen : Nat
  /-- BAUD_LOW (R6; no width) -/
  baudLow : Nat
  /-- BAUD_HIGH (R6; no width) -/
  baudHigh : Nat
  /-- STEP_RX_OFF -/
  stepRxOff : Nat
  /-- STEP_TX_OFF -/
  stepTxOff : Nat
  /-- TEMPLATE_B: (offset, value) pairs -/
  templateB : List (Nat × Byte)
  /-- TONE_TABLE_A, in order -/
  toneTableA : List ToneEntry
  /-- NOTONE_A, first byte -/
  noToneA0 : Byte
  /-- NOTONE_A, second byte -/
  noToneA1 : Byte
  /-- SCANKEY_ADDR -/
  scanKeyAddr : BitVec 16
  /-- SCANKEY_DATA, 1..255 bytes -/
  scanKeyData : List Byte
  /-- MASK_ADDR -/
  maskAddr : BitVec 16
  /-- READ_ACK_MODE -/
  readAckMode : ReadAckMode
  /-- T_TIMEOUT (R168; no rule reads it) -/
  tTimeout : Nat
  /-- T_IBD (R138, R168; no rule reads it) -/
  tIbd : Nat
  deriving DecidableEq, Repr

/-- NOTONE_A as the two field bytes (R76). -/
def Params.noToneA (p : Params) : List Byte := [p.noToneA0, p.noToneA1]

/-- Record offsets the source assigns to a field other than the step flags (R53). -/
def fieldOffsets : List Nat := [0, 2, 3, 4, 5, 6, 7, 8, 9, 12, 13, 14, 15, 17]

/-- A step-flag offset lies in {1, 10, 11, 16, 18, ..., 31} (R53). -/
def stepOffsetOk (o : Nat) : Bool := decide (o < 32) && !fieldOffsets.contains o

/-- STEP_RX_OFF and STEP_TX_OFF are allowed offsets and distinct (R53). -/
def Params.stepOffsetsOk (p : Params) : Bool :=
  stepOffsetOk p.stepRxOff && stepOffsetOk p.stepTxOff && p.stepRxOff != p.stepTxOff

/-- TEMPLATE_B: nine pairs, distinct offsets inside the record and off every field (R97). -/
def Params.templateOk (p : Params) : Bool :=
  p.templateB.length == templateLen &&
    decide ((p.templateB.map Prod.fst).Nodup) &&
    p.templateB.all fun ov =>
      stepOffsetOk ov.1 && ov.1 != p.stepRxOff && ov.1 != p.stepTxOff

/-- TONE_TABLE_A: tones distinct and non-zero, pairs distinct, no pair equal to NOTONE_A (R75). -/
def Params.toneTableOk (p : Params) : Bool :=
  decide ((p.toneTableA.map ToneEntry.tone).Nodup) &&
    decide ((p.toneTableA.map ToneEntry.bytes).Nodup) &&
    p.toneTableA.all fun e => e.tone != 0 && e.bytes != p.noToneA

/-- The wire constants' constraints: PROG_REQ has 7 bytes (R4, R5), CMD_READ differs from CMD_WRITE
(D1), RESP_LEN is at most 255 (R6), SCANKEY_DATA has 1..255 bytes (R144) and no slot address wraps
(R30). -/
def Params.wireOk (p : Params) : Bool :=
  p.progReq.length == progReqLen && p.cmdRead != p.cmdWrite && decide (p.respLen ≤ 255) &&
    decide (1 ≤ p.scanKeyData.length) && decide (p.scanKeyData.length ≤ 255) &&
    decide (p.baseAddr.toNat + 0x1FF ≤ 0xFFFF)

/-- Every constraint the spec puts on the parameters. -/
def Params.wellFormed (p : Params) : Bool :=
  p.wireOk && p.stepOffsetsOk && p.templateOk && p.toneTableOk

/-- A parameter set with the spec's constraints on it, paired once.  The field defaults only show
that such a set exists; no state takes them. -/
structure BlockParams where
  raw : Params :=
    { progReq := [0, 0, 0, 0, 0, 0, 0], listenCode := 0, verReq := 0, cmdRead := 0, cmdWrite := 1,
      cmdSelect := 0, endCode := 0, k2 := 0, baseAddr := 0, marker := 0, respLen := 0,
      baudLow := 0, baudHigh := 0, stepRxOff := 1, stepTxOff := 10,
      templateB := [(18, 0), (19, 0), (20, 0), (21, 0), (22, 0), (23, 0), (24, 0), (25, 0), (26, 0)],
      toneTableA := [], noToneA0 := 0, noToneA1 := 0, scanKeyAddr := 0, scanKeyData := [0],
      maskAddr := 0, readAckMode := .sendThenCheck, tTimeout := 0, tIbd := 0 }
  ok : raw.wellFormed = true := by decide
  deriving DecidableEq, Repr, Inhabited

/-- DEV's answer to one `OPEN()` or `RX(n)` (R136). -/
inductive DevAnswer where
  /-- UNAVAILABLE at an OPEN, TIMEOUT at an RX. -/
  | absent
  /-- OK at an OPEN; at an `RX(n)` the n bytes `data[0..n-1]` (a byte the list does not hold is
  0x00 and a byte past n is not read, so every answer of n bytes is such a value). -/
  | present (data : List Byte)
  deriving DecidableEq, Repr, Inhabited

/-- The parameter inputs of the block that State.reset resets: OPEN (R5, R6), so nothing is known of
them but their constraints (log entry 2). -/
opaque blockParams : BlockParams

/-- DEV's free draws (R136): the answer to the k-th draw when the state holds no pending answer.
Nothing is known of it (log entry 4). -/
opaque devDraw : Nat → DevAnswer

/-- The unspecified value of a HOST read of RES, ACTMASK, TBL or IMG while BUSY = 1, a fresh draw on
each read (R40).  Nothing is known of it (log entry 3). -/
opaque busyRead : Nat → Word

end Sys2Proof.Config
end

