-- ==== Sys2Proof/Machine/State.lean ====
section
/-! DEFINITION. The state of the block (10_state.md, R8..R27), of the two agents outside it (HOST's
pending accesses, DEV's pending answers), and its reset value (R172).  Plain data throughout. -/

namespace Sys2Proof.Machine

open Sys2Proof.Config

/-- SSTATE, the session state (R13).  The codes 6 and 7 of the field are never produced: they have no
constructor. -/
inductive SessionState where
  | idle
  | listening
  | keyExchanged
  | active
  | terminated
  | failed
  deriving DecidableEq, Repr

/-- The typed errors of R158. -/
inductive ErrorKind where
  | handshakeRejected
  | confirmationMismatch
  | timeout
  | encodingError
  | transportUnavailable
  | decodeError
  | illegalCommand
  deriving DecidableEq, Repr

/-- ERRINFO.PHASE (R159). -/
inductive ErrPhase where
  | none
  | cmd
  | encode
  | decode
  | openLink
  | hsListen
  | hsConf1
  | hsIdent
  | hsConf2
  | hsResp
  | hsConf3
  | scanKey
  | mask
  | slotData
  | slotAck
  | term
  deriving DecidableEq, Repr

/-- ERRINFO.FIELD, the record field of a codec error (R14). -/
inductive RecField where
  | none
  | rxf
  | rxstep
  | txf
  | txstep
  | rxt
  | txt
  | flags
  deriving DecidableEq, Repr

/-- STATUS by its fields (R13); the word HOST reads is `Status.toWord` in Flags.lean.  LINK and
BAUDHI are also the transport's line state (R26): they have this one home. -/
structure Status where
  busy : Bool
  done : Bool
  err : Bool
  termFail : Bool
  /-- The code of the last finished command's error, `none` for 0. -/
  ecode : Option ErrorKind
  sstate : SessionState
  link : Bool
  baudHi : Bool
  deriving DecidableEq, Repr

/-- ERRINFO by its fields (R14); the word HOST reads is `ErrInfo.toWord` in Flags.lean. -/
structure ErrInfo where
  exp : Byte
  act : Byte
  slot : BitVec 5
  field : RecField
  phase : ErrPhase
  deriving DecidableEq, Repr

/-- ERRINFO = 0 (R50, R172). -/
def ErrInfo.clear : ErrInfo :=
  { exp := 0, act := 0, slot := 0, field := .none, phase := .none }

/-- An error with its info, the pair `end_with_error` and `fail` take (R148, R161). -/
structure Failure where
  kind : ErrorKind
  info : ErrInfo
  deriving DecidableEq, Repr

/-- What a write transaction writes: the scan-toggle data (R144), the enumeration bitmask (R145) or
the record of the current slot (R143). -/
inductive Target where
  | scanKey
  | mask
  | slot
  deriving DecidableEq, Repr

/-- SEQ.PHASE: the step of the session sequence (R24), in the order of R121..R131, R139, R142 and
R147. -/
inductive SeqPhase where
  | idle
  | openLink
  | progReq
  | listen
  | baud
  | echo0
  | verReq
  | ident
  | keySend
  | conf1
  | conf1Echo
  | mark
  | resp
  | conf2
  | conf2Echo
  /-- the read descriptor of RDTXN (R139) -/
  | readDesc
  /-- RX of the data block of RDTXN -/
  | readData
  /-- the byte CONF ^ K2 of RDTXN under SEND_THEN_CHECK (R140) -/
  | readAck
  /-- the check of RDTXN -/
  | readCheck
  /-- the write descriptor of WRTXN (R142) -/
  | writeDesc (t : Target)
  /-- the data bytes of WRTXN -/
  | writeData (t : Target)
  /-- the checksum byte of WRTXN -/
  | writeSum (t : Target)
  /-- the check of WRTXN -/
  | writeCheck (t : Target)
  /-- the END byte of the termination sequence (R147) -/
  | termSend
  /-- the check of the termination sequence -/
  | termCheck
  /-- CLOSE of the termination sequence -/
  | termClose
  deriving DecidableEq, Repr

/-- The sequencer position (R24). -/
structure Seq where
  /-- SEQ.OP: the opcode being executed, or none. -/
  op : Option (BitVec 8)
  phase : SeqPhase
  /-- How many bytes of the phase's outbound frame are sent: one byte is one step (R3, R135;
  DEDUCED, log entry 10). -/
  sent : Nat
  /-- SEQ.SLOT: 0..16. -/
  slot : Nat
  /-- SEQ.DONE_SLOTS: 0..16. -/
  doneSlots : Nat
  /-- SEQ.ERROR: the error reported while the termination sequence runs, or none. -/
  error : Option Failure
  deriving DecidableEq, Repr

/-- A transport event of the session's trace, with DEV's answer where it has one (R135, R136). -/
inductive Event where
  /-- OPEN() and whether it answered OK. -/
  | openLink (ok : Bool)
  /-- TX(b). -/
  | tx (b : Byte)
  /-- RX(n) and its answer: the n bytes, or none for TIMEOUT. -/
  | rx (n : Nat) (answer : Option (List Byte))
  /-- BAUD(r). -/
  | baud (rate : Nat)
  /-- CLOSE(). -/
  | close
  deriving DecidableEq, Repr

/-- What the outside does next at the host port and the reset input (R8).  `write n a v` and
`read n a` are MemWrite and MemRead of `n` bytes at host address `a`; `poll` is the assembler's
POLL, reading STATUS until BUSY = 0 (R52); `wait` is a step in which HOST does nothing; `reset` is
the reset input (R173). -/
inductive HostAct where
  | write (n a : Nat) (v : Word)
  | read (n a : Nat)
  | poll
  | wait
  | reset
  deriving DecidableEq, Repr

/-- TBL and IMG as bytes by host address, in canonical form (`Memory.wf` in Ops.lean). -/
abbrev Memory := List Host.Cell

/-- Everything the spec gives the machine (10_state.md), and the model's own fields for the agents
outside the block: `hostQueue`, `devQueue`, `hostData`, `draws` and `trace`. -/
structure State where
  /-- The parameter inputs, fixed for the life of the block (R5, R6, R8). -/
  params : BlockParams
  /-- CMD (R10). -/
  cmd : Word
  /-- ARG (R11). -/
  arg : Word
  /-- RES (R12). -/
  res : Word
  /-- STATUS (R13), with the line state LINK and BAUD (R26). -/
  status : Status
  /-- ERRINFO (R14). -/
  errInfo : ErrInfo
  /-- CFG[4:0] (R15); the reserved bits 31:5 read 0 and are not stored. -/
  cfg : BitVec 5
  /-- KEY1[7:0] (R17); the reserved bits 31:8 read 0 and are not stored. -/
  key1 : Byte
  /-- ACTMASK[15:0] (R19); the bits 31:16 read 0 and are not stored. -/
  actMask : BitVec 16
  /-- TBL and IMG (R20, R22), by host address. -/
  mem : Memory
  /-- K1S, the session's first-layer key (R23). -/
  k1s : Byte
  /-- SEQ.OP, SEQ.PHASE, SEQ.SLOT, SEQ.DONE_SLOTS, SEQ.ERROR (R24). -/
  seq : Seq
  /-- STAGE, the 32 staged bytes of a read transaction (R25). -/
  stage : List Byte
  /-- CFG as latched at the start of the session (R16).  Reset 0: DESIGN CHOICE, log entry 10. -/
  latchedCfg : BitVec 5
  /-- KEY1 as latched at the start of the session (R16).  Reset 0: DESIGN CHOICE, log entry 10. -/
  latchedKey1 : Byte
  /-- MODEL: what HOST does next, in its order (R39; DESIGN CHOICE, log entry 5). -/
  hostQueue : List HostAct
  /-- MODEL: DEV's next answers; when the list is empty an answer is a free draw (R136; DESIGN
  CHOICE, log entry 4). -/
  devQueue : List DevAnswer
  /-- MODEL: the value of HOST's last read, zero-extended. -/
  hostData : Word
  /-- MODEL: how many free draws have been made. -/
  draws : Nat
  /-- MODEL: the event trace of the current or last session, oldest first (R135; DESIGN CHOICE, log
  entry 8). -/
  trace : List Event
  deriving DecidableEq, Repr

/-- Why a step ends in a fault: never.  Every error of the block is an error state that it goes on
from (R157, R163), so no constructor is needed; safe. -/
inductive Fault where
  deriving DecidableEq, Repr

/-- Why the model stops (93_implementation_defined.md section 3: "refuse"). -/
inductive Refusal where
  /-- Raised by exec for a command without a meaning; there is none.  Safe. -/
  | notModelled (mnemonic : String)
  /-- Raised by step for a HOST access that is not naturally aligned (R34).  Safe: the spec gives it
  no meaning. -/
  | misalignedAccess
  /-- Raised by step for a HOST access of a width other than 1, 2 and 4 bytes (R34).  Safe: the spec
  gives it no meaning. -/
  | accessWidth
  /-- Raised by step for a HOST access that leaves the host space 0x000..0x3FF (R28).  Safe: the spec
  gives it no meaning. -/
  | outsideHostSpace
  deriving DecidableEq, Repr

/-- STATUS = 0 (R172). -/
def Status.reset : Status :=
  { busy := false, done := false, err := false, termFail := false, ecode := none,
    sstate := .idle, link := false, baudHi := false }

/-- The sequencer position after reset (R24, R172). -/
def Seq.reset : Seq :=
  { op := none, phase := .idle, sent := 0, slot := 0, doneSlots := 0, error := none }

/-- The machine right after reset (R172), with nothing pending from the outside.  TBL, IMG and STAGE,
which the spec leaves unspecified, read 0x00 (DESIGN CHOICE, log entry 1). -/
def State.reset : State :=
  { params := blockParams
    cmd := 0
    arg := 0
    res := 0
    status := Status.reset
    errInfo := ErrInfo.clear
    cfg := 0
    key1 := 0
    actMask := 0xFFFF
    mem := []
    k1s := 0
    seq := Seq.reset
    stage := List.replicate 32 0
    latchedCfg := 0
    latchedKey1 := 0
    hostQueue := []
    devQueue := []
    hostData := 0
    draws := 0
    trace := [] }

end Sys2Proof.Machine
end

