-- ==== Sys2Proof/Machine/Flags.lean ====
section
/-! DEFINITION. The status register and the error-context register as HOST reads them (R13, R14), the
code of each field value (R13, R14, R158, R159), the selector bits of CFG (R15), and what a command's
start, success and error do to the STATUS flags (R50, R161). -/

namespace Sys2Proof.Machine

/-- STATUS.SSTATE's codes (R13). -/
def SessionState.code : SessionState → BitVec 3
  | .idle => 0
  | .listening => 1
  | .keyExchanged => 2
  | .active => 3
  | .terminated => 4
  | .failed => 5

/-- STATUS.ECODE's codes (R158). -/
def ErrorKind.code : ErrorKind → BitVec 4
  | .handshakeRejected => 1
  | .confirmationMismatch => 2
  | .timeout => 3
  | .encodingError => 4
  | .transportUnavailable => 5
  | .decodeError => 6
  | .illegalCommand => 7

/-- ECODE: the code of the error, or 0 for none (R13, R158). -/
def ecodeField : Option ErrorKind → BitVec 4
  | none => 0
  | some k => k.code

/-- ERRINFO.PHASE's codes (R159). -/
def ErrPhase.code : ErrPhase → BitVec 4
  | .none => 0
  | .cmd => 1
  | .encode => 2
  | .decode => 3
  | .openLink => 4
  | .hsListen => 5
  | .hsConf1 => 6
  | .hsIdent => 7
  | .hsConf2 => 8
  | .hsResp => 9
  | .hsConf3 => 10
  | .scanKey => 11
  | .mask => 12
  | .slotData => 13
  | .slotAck => 14
  | .term => 15

/-- ERRINFO.FIELD's codes (R14). -/
def RecField.code : RecField → BitVec 3
  | .none => 0
  | .rxf => 1
  | .rxstep => 2
  | .txf => 3
  | .txstep => 4
  | .rxt => 5
  | .txt => 6
  | .flags => 7

/-- The STATUS word: bits 31:13 reserved, BAUDHI, LINK, SSTATE, ECODE, TERMFAIL, ERR, DONE, BUSY
(R13). -/
def Status.toWord (st : Status) : Word :=
  0#19 ++ BitVec.ofBool st.baudHi ++ BitVec.ofBool st.link ++ st.sstate.code ++
    ecodeField st.ecode ++ BitVec.ofBool st.termFail ++ BitVec.ofBool st.err ++
    BitVec.ofBool st.done ++ BitVec.ofBool st.busy

/-- The ERRINFO word: bits 31:28 reserved, PHASE, FIELD, SLOT, ACT, EXP (R14). -/
def ErrInfo.toWord (e : ErrInfo) : Word :=
  0#4 ++ e.phase.code ++ e.field.code ++ e.slot ++ e.act ++ e.exp

/-- CFG.FREQSEL: true for Variant B (R15). -/
def cfgFreqSel (cfg : BitVec 5) : Bool := cfg.getLsbD 0

/-- CFG.TONESEL: true for Variant B (R15). -/
def cfgToneSel (cfg : BitVec 5) : Bool := cfg.getLsbD 1

/-- CFG.FLAGSEL: true for Variant B (R15). -/
def cfgFlagSel (cfg : BitVec 5) : Bool := cfg.getLsbD 2

/-- CFG.TPLSEL: true for the empty record with the template (R15). -/
def cfgTplSel (cfg : BitVec 5) : Bool := cfg.getLsbD 3

/-- CFG.PVAR: true for the revised protocol (R15). -/
def cfgPvar (cfg : BitVec 5) : Bool := cfg.getLsbD 4

/-- The STATUS flags a command's start clears (R50). -/
def Status.started (st : Status) : Status :=
  { st with done := false, err := false, ecode := none, termFail := false }

/-- The STATUS flags of a command that ends without error: DONE = 1, ERR = 0, and ECODE = 0 when
ERR = 0 (R13, 40_field_codecs.md section 2, R51). -/
def Status.succeeded (st : Status) : Status :=
  { st with done := true, err := false, ecode := none }

/-- The STATUS flags of a command that ends in the error `k`: ERR, ECODE, BUSY and DONE (R161). -/
def Status.errored (st : Status) (k : ErrorKind) : Status :=
  { st with busy := false, done := true, err := true, ecode := some k }

end Sys2Proof.Machine
end

