-- ==== Sys2Proof/Machine/Ops.lean ====
section
/-! DEFINITION. The shared operations: byte order (R31, R33), the memory of the host buffers (R29, R38),
recording a command's success, error capture (`end_with_error`, R161: this block's taking of an
exception; R163 says there is no return from one), the session's start and end (R115, R150), the
transport events (R135), DEV's answers (R136), and the reset input (R173). -/

namespace Sys2Proof.Machine

open Sys2Proof.Config

/-! ## Byte order -/

/-- The `n` low bytes of a number, least significant first (R31). -/
def leBytes : Nat → Nat → List Byte
  | 0, _ => []
  | n + 1, v => BitVec.ofNat 8 v :: leBytes n (v / 256)

/-- The number whose bytes are given least significant first (R31). -/
def leNat : List Byte → Nat
  | [] => 0
  | b :: bs => b.toNat + 256 * leNat bs

/-! ## TBL and IMG -/

/-- What a byte of TBL or IMG that nothing has written reads as.  The spec leaves it unspecified
(R172): DESIGN CHOICE, log entry 1. -/
def unlistedByte : Byte := 0x00

/-- The bits of the byte at host address `a` that are storage in TBL or IMG: all of them but a TBL
entry's reserved bits (byte 12 bits 7:5, bytes 13..15: R21, R38), and none outside the two
buffers (R29). -/
def storedBits (a : Nat) : Byte :=
  if a < 0x100 then 0
  else if a < 0x200 then
    if a % 16 < 12 then 0xFF else if a % 16 = 12 then 0x1F else 0
  else if a < 0x400 then 0xFF
  else 0

/-- The byte listed at `a`, or `unlistedByte`. -/
def Memory.lookup : Memory → Nat → Byte
  | [], _ => unlistedByte
  | (x, b) :: m, a => if x = a then b else Memory.lookup m a

/-- The byte of TBL or IMG at host address `a`, its reserved bits 0 (R35, R38). -/
def Memory.read (m : Memory) (a : Nat) : Byte := m.lookup a &&& storedBits a

/-- The `n` bytes from `a` on, in ascending address order. -/
def Memory.readBytes (m : Memory) : Nat → Nat → List Byte
  | _, 0 => []
  | a, n + 1 => m.read a :: m.readBytes (a + 1) n

/-- The canonical cells of the bytes `bs` from `a` on: reserved bits dropped, and no cell for a byte
that an unlisted address reads as. -/
def Memory.cells : Nat → List Byte → Memory
  | _, [] => []
  | a, b :: bs =>
    if b &&& storedBits a = unlistedByte then Memory.cells (a + 1) bs
    else (a, b &&& storedBits a) :: Memory.cells (a + 1) bs

/-- The memory after the bytes `bs` are written from `a` on (R31, R38). -/
def Memory.writeBytes (m : Memory) (a : Nat) (bs : List Byte) : Memory :=
  m.filter (fun c => decide (c.1 < a)) ++ Memory.cells a bs ++
    m.filter (fun c => decide (a + bs.length ≤ c.1))

/-- Addresses strictly rising. -/
def Memory.rising (m : Memory) : Bool := decide (m.Pairwise (fun c d => c.1 < d.1))

/-- The canonical form: addresses strictly rising, only stored bits, and no cell equal to what an
unlisted address reads as. -/
def Memory.wf (m : Memory) : Bool :=
  m.rising && m.all fun c => c.2 != unlistedByte && c.2 &&& storedBits c.1 == c.2

/-! ## A command's outcome -/

/-- A command has completed with the result `v`: RES, DONE = 1, ERR = 0 (R12, R51). -/
def State.succeed (s : State) (v : Word) : State :=
  { s with res := v, status := s.status.succeeded, seq := { s.seq with op := none } }

/-- `end_with_error` (R161): ERR, ECODE, ERRINFO, BUSY and DONE.  SEQ.OP and SEQ.ERROR go back to
none: the command is no longer executing and its error is reported (R24; DEDUCED, log entry 9). -/
def State.endWithError (s : State) (f : Failure) : State :=
  { s with
    status := s.status.errored f.kind
    errInfo := f.info
    seq := { s.seq with op := none, error := none } }

/-- The error of a field-codec command: FIELD = 0, SLOT = 0 (R160). -/
def fieldFailure (ph : ErrPhase) (k : ErrorKind) : Failure :=
  { kind := k, info := { ErrInfo.clear with phase := ph } }

/-- The error of a record codec at a slot and field (R98, R102, R160). -/
def recordFailure (ph : ErrPhase) (i : SlotIx) (kf : ErrorKind × RecField) : Failure :=
  { kind := kf.1,
    info := { ErrInfo.clear with
      phase := ph, field := kf.2, slot := BitVec.ofNat 5 i.number } }

/-- The end of a field-codec command: its result in RES, or its error (40_field_codecs.md
section 2). -/
def State.finishField (s : State) (ph : ErrPhase) : Except ErrorKind Word → State
  | .ok v => s.succeed v
  | .error k => s.endWithError (fieldFailure ph k)

/-- The start of a command (R50): CMD, the cleared flags, ERRINFO and SEQ.OP. -/
def State.startCommand (s : State) (w : Word) : State :=
  { s with
    cmd := w
    status := s.status.started
    errInfo := ErrInfo.clear
    seq := { s.seq with op := some (wordOp w) } }

/-- The error of an illegal command word (R49, R160). -/
def illegalCommandFailure : Failure := fieldFailure .cmd .illegalCommand

/-! ## Sessions -/

/-- The latching of CFG and KEY1 at a session's start, with SEQ.DONE_SLOTS <- 0, SSTATE <- Idle and
BUSY <- 1 (R16, R50, R153, R154). -/
def State.latchSession (s : State) : State :=
  { s with
    latchedCfg := s.cfg
    latchedKey1 := s.key1
    status := { s.status with busy := true, sstate := .idle }
    seq := { s.seq with doneSlots := 0 } }

/-- The session's first-layer key (R115). -/
def sessionKey (cfg : BitVec 5) (key1 : Byte) : Byte :=
  if cfgPvar cfg then key1 else k1Legacy

/-- The start of the handshake (R132): K1S from the latched configuration, the session's trace
empty (log entry 8), and the sequencer at step OPEN. -/
def State.beginHandshake (s : State) : State :=
  { s with
    k1s := sessionKey s.latchedCfg s.latchedKey1
    trace := []
    seq := { s.seq with phase := .openLink, sent := 0, slot := 0, error := none } }

/-- `end_session` (R150).  The latched CFG and KEY1 keep their values until the next session latches
again (DESIGN CHOICE, log entry 10). -/
def State.endSession (s : State) : State :=
  { s with
    k1s := 0
    res := BitVec.ofNat 32 s.seq.doneSlots
    status := { s.status with link := false, baudHi := false, busy := false, done := true }
    seq := { s.seq with phase := .idle, sent := 0, slot := 0 } }

/-- SSTATE <- v. -/
def State.setSession (s : State) (v : SessionState) : State :=
  { s with status := { s.status with sstate := v } }

/-- The sequencer goes on to the phase `p`, no byte of its frame sent. -/
def State.goto (s : State) (p : SeqPhase) : State :=
  { s with seq := { s.seq with phase := p, sent := 0 } }

/-- SEQ.SLOT <- n. -/
def State.setSlot (s : State) (n : Nat) : State :=
  { s with seq := { s.seq with slot := n } }

/-- SEQ.DONE_SLOTS <- SEQ.DONE_SLOTS + 1. -/
def State.countSlot (s : State) : State :=
  { s with seq := { s.seq with doneSlots := s.seq.doneSlots + 1 } }

/-- The start of the failure path `fail(error, info)` (R148): SEQ.ERROR, SSTATE <- Failed, then the
termination sequence, which is outside the channel loop, so SEQ.SLOT is 0 (R24). -/
def State.fail (s : State) (f : Failure) : State :=
  ({ s with seq := { s.seq with error := some f, slot := 0 } }.setSession .failed).goto .termSend

/-! ## Transport events -/

/-- An event is performed: it is recorded in the session's trace (R135). -/
def State.emit (s : State) (e : Event) : State := { s with trace := s.trace ++ [e] }

/-- DEV's next answer: the next pending one, else a free draw (R136). -/
def State.devAnswer (s : State) : DevAnswer :=
  match s.devQueue with
  | a :: _ => a
  | [] => devDraw s.draws

/-- DEV's answer is used up. -/
def State.answered (s : State) : State :=
  match s.devQueue with
  | _ :: q => { s with devQueue := q }
  | [] => { s with draws := s.draws + 1 }

/-- The `n` bytes of an answer. -/
def answerBytes (data : List Byte) (n : Nat) : List Byte :=
  (List.range n).map fun k => data.getD k 0

/-- DEV's answer to `RX(n)`: n bytes, or none for TIMEOUT (R136). -/
def State.rxAnswer (s : State) (n : Nat) : Option (List Byte) :=
  match s.devAnswer with
  | .absent => none
  | .present data => some (answerBytes data n)

/-- Whether `OPEN()` answers OK (R121, R136). -/
def State.openAnswer (s : State) : Bool :=
  match s.devAnswer with
  | .absent => false
  | .present _ => true

/-- `RX(n)` is performed with the answer `State.rxAnswer`. -/
def State.afterRx (s : State) (n : Nat) : State :=
  s.answered.emit (.rx n (s.rxAnswer n))

/-- Checksum(d): the 8-bit wraparound sum of the bytes (R87). -/
def checksum (d : List Byte) : Byte := BitVec.ofNat 8 (d.map BitVec.toNat).sum

/-- `enc(b, k) = dec(b, k) = b ^ k`, byte by byte (R116). -/
def xorBytes (key : Byte) (d : List Byte) : List Byte := d.map (· ^^^ key)

/-! ## The reset input -/

/-- The reset input (R173): every piece of the block's state takes its value of R172 and no event is
performed.  The parameters are fixed, and what belongs to the outside (HOST's and DEV's pending
items, HOST's last read, the draws made, the trace of what was sent) stays (DESIGN CHOICE, log entry
11). -/
def State.resetInput (s : State) : State :=
  { State.reset with
    params := s.params
    hostQueue := s.hostQueue
    devQueue := s.devQueue
    hostData := s.hostData
    draws := s.draws
    trace := s.trace }

end Sys2Proof.Machine
end

