-- ==== Sys2Proof/Machine/Operands.lean ====
section
/-! DEFINITION. Every operand form: the bytes of ARG and RES (R33), the slots' host and device
addresses (R29, R30), the entries of TBL (R21) and the records of IMG (R22). -/

namespace Sys2Proof.Machine

open Sys2Proof.Config

/-- The parameters, without the proof of their constraints. -/
abbrev State.par (s : State) : Params := s.params.raw

/-- Field byte k of ARG is ARG[8k+7:8k] (R33). -/
def argByte (w : Word) (k : Nat) : Byte := w.extractLsb' (8 * k) 8

/-- The first `n` field bytes of ARG (R33). -/
def argBytes (w : Word) (n : Nat) : List Byte := leBytes n w.toNat

/-- RES from field bytes, byte k in RES[8k+7:8k] (R33). -/
def resOfBytes (bs : List Byte) : Word := BitVec.ofNat 32 (leNat bs)

/-- All sixteen slots in ascending order. -/
def allSlots : List SlotIx := [0, 1, 2, 3, 4, 5, 6, 7, 8, 9, 10, 11, 12, 13, 14, 15]

/-- Host address of the TBL entry of slot s: 0x100 + 16 (s - 1) (R29). -/
def tblAddr (i : SlotIx) : Nat := 0x100 + 16 * i.val

/-- Host address of IMG record s: 0x200 + 32 (s - 1) (R29); `n` is the slot number. -/
def imgAddrOf (n : Nat) : Nat := 0x200 + 32 * (n - 1)

/-- Host address of the IMG record of a slot (R29). -/
def imgAddr (i : SlotIx) : Nat := imgAddrOf i.number

/-- SLOT_ADDR(s) = BASE_ADDR + 0x20 (s - 1), the device address of slot number `n` (R30). -/
def slotAddr (p : Params) (n : Nat) : BitVec 16 :=
  p.baseAddr + BitVec.ofNat 16 (stride * (n - 1))

/-- A TBL entry by its fields (R21).  The reserved bits are not stored. -/
structure TblEntry where
  rxf : Word
  txf : Word
  rxt : BitVec 16
  txt : BitVec 16
  rxv : Bool
  txv : Bool
  power : Bool
  width : Bool
  scan : Bool
  deriving DecidableEq, Repr

/-- The empty entry (R104). -/
def TblEntry.empty : TblEntry :=
  { rxf := 0, txf := 0, rxt := 0, txt := 0, rxv := false, txv := false, power := false,
    width := false, scan := false }

/-- Byte 12 of an entry: reserved bits 7:5, SCAN, WIDTH, POWER, TXV, RXV (R21). -/
def TblEntry.flagByte (e : TblEntry) : Byte :=
  0#3 ++ BitVec.ofBool e.scan ++ BitVec.ofBool e.width ++ BitVec.ofBool e.power ++
    BitVec.ofBool e.txv ++ BitVec.ofBool e.rxv

/-- The sixteen bytes of an entry, little-endian (R21). -/
def TblEntry.bytes (e : TblEntry) : List Byte :=
  leBytes 4 e.rxf.toNat ++ leBytes 4 e.txf.toNat ++ leBytes 2 e.rxt.toNat ++
    leBytes 2 e.txt.toNat ++ [e.flagByte, 0, 0, 0]

/-- TBL entry at host address `a` (R21). -/
def readEntryAt (m : Memory) (a : Nat) : TblEntry :=
  { rxf := BitVec.ofNat 32 (leNat (m.readBytes a 4))
    txf := BitVec.ofNat 32 (leNat (m.readBytes (a + 4) 4))
    rxt := BitVec.ofNat 16 (leNat (m.readBytes (a + 8) 2))
    txt := BitVec.ofNat 16 (leNat (m.readBytes (a + 10) 2))
    rxv := (m.read (a + 12)).getLsbD 0
    txv := (m.read (a + 12)).getLsbD 1
    power := (m.read (a + 12)).getLsbD 2
    width := (m.read (a + 12)).getLsbD 3
    scan := (m.read (a + 12)).getLsbD 4 }

/-- TBL[s] (R21). -/
def readEntry (m : Memory) (i : SlotIx) : TblEntry := readEntryAt m (tblAddr i)

/-- TBL[s] <- e (R112). -/
def writeEntry (m : Memory) (i : SlotIx) (e : TblEntry) : Memory :=
  m.writeBytes (tblAddr i) e.bytes

/-- The 32 bytes of IMG record number `n` (R22). -/
def readRecordOf (m : Memory) (n : Nat) : List Byte := m.readBytes (imgAddrOf n) recLen

/-- IMG[s] (R22). -/
def readRecord (m : Memory) (i : SlotIx) : List Byte := readRecordOf m i.number

/-- IMG[s] <- r (R111). -/
def writeRecord (m : Memory) (i : SlotIx) (r : List Byte) : Memory :=
  m.writeBytes (imgAddr i) r

end Sys2Proof.Machine
end

