-- ==== Sys2Proof/Machine/FieldCodec.lean ====
section
/-! DEFINITION. The field functions of 40_field_codecs.md section 1 (R60..R87): frequency, step flag,
tone and flags, in both variants.  A field's bytes are a list in record-offset order; an error is the
kind of R158 it raises. -/

namespace Sys2Proof.Machine

open Sys2Proof.Config

/-- BCD2(n) for 0 ≤ n ≤ 99 (00_scope.md section 6). -/
def bcd2 (n : Nat) : Byte := BitVec.ofNat 8 (((n / 10) <<< 4) ||| (n % 10))

/-- hi(b) = b[7:4] (00_scope.md section 6). -/
def hiNibble (b : Byte) : Nat := (b.extractLsb' 4 4).toNat

/-- lo(b) = b[3:0] (00_scope.md section 6). -/
def loNibble (b : Byte) : Nat := (b.extractLsb' 0 4).toNat

/-- The value hi(b) * 10 + lo(b) of a two-digit byte (R64, R68). -/
def bcdValue (b : Byte) : Nat := hiNibble b * 10 + loNibble b

/-- Both nibbles are decimal digits (R64). -/
def bcdOk (b : Byte) : Bool := hiNibble b ≤ 9 && loNibble b ≤ 9

/-- The sum over j of the value of byte j times 100^j (R64, R68). -/
def bcdSum : List Byte → Nat
  | [] => 0
  | b :: bs => bcdValue b + 100 * bcdSum bs

/-- FreqEncA(f) (R62, R63). -/
def freqEncA (f : Nat) : Except ErrorKind (List Byte) :=
  if f < 10000000 ∨ f > 99999999 then .error .encodingError
  else .ok [bcd2 (f % 100), bcd2 (f / 100 % 100), bcd2 (f / 10000 % 100), bcd2 (f / 1000000)]

/-- FreqDecA(b) (R64). -/
def freqDecA (b : List Byte) : Except ErrorKind Nat :=
  if b.all bcdOk then .ok (bcdSum b) else .error .decodeError

/-- FreqEncB(f) (R66, R67), k = f / 100 being the whole kilohertz. -/
def freqEncB (f : Nat) : Except ErrorKind (List Byte) :=
  if f / 100 > 999999 then .error .encodingError
  else .ok [0xFF, bcd2 (f / 100 % 100), bcd2 (f / 100 / 100 % 100), bcd2 (f / 100 / 10000 % 100)]

/-- FreqDecB(b): byte 0 is not read and no nibble is refused (R68). -/
def freqDecB (b : List Byte) : Nat := bcdSum (b.drop 1) * 100

/-- The frequency encoder that CFG.FREQSEL chooses (R88). -/
def freqEnc (cfg : BitVec 5) (f : Nat) : Except ErrorKind (List Byte) :=
  if cfgFreqSel cfg then freqEncB f else freqEncA f

/-- The frequency decoder that CFG.FREQSEL chooses (R89). -/
def freqDec (cfg : BitVec 5) (b : List Byte) : Except ErrorKind Nat :=
  if cfgFreqSel cfg then .ok (freqDecB b) else freqDecA b

/-- StepFlag(f): the first divisor of the table, in its order, that divides the five decimals
(R69..R71). -/
def stepFlag (f : Nat) : Except ErrorKind Byte :=
  if f % 100000 % 1250 = 0 then .ok 2
  else if f % 100000 % 500 = 0 then .ok 1
  else if f % 100000 % 750 = 0 then .ok 0
  else if f % 100000 % 250 = 0 then .ok 3
  else .error .encodingError

/-- ToneEncA(t) (R76). -/
def toneEncA (p : Params) (t : Nat) : Except ErrorKind (List Byte) :=
  if t = 0 then .ok p.noToneA
  else match p.toneTableA.find? (fun e => e.tone.toNat == t) with
    | some e => .ok e.bytes
    | none => .error .encodingError

/-- ToneDecA(b) (R77). -/
def toneDecA (p : Params) (b : List Byte) : Except ErrorKind Nat :=
  if b = p.noToneA then .ok 0
  else match p.toneTableA.find? (fun e => e.bytes == b) with
    | some e => .ok e.tone.toNat
    | none => .error .decodeError

/-- ToneEncB(t) (R79). -/
def toneEncB (t : Nat) : Except ErrorKind (List Byte) :=
  if t > 0xFFFF then .error .encodingError else .ok (leBytes 2 t)

/-- ToneDecB(b) (R80). -/
def toneDecB (b : List Byte) : Nat := leNat b

/-- The tone encoder that CFG.TONESEL chooses (R91). -/
def toneEnc (p : Params) (cfg : BitVec 5) (t : Nat) : Except ErrorKind (List Byte) :=
  if cfgToneSel cfg then toneEncB t else toneEncA p t

/-- The tone decoder that CFG.TONESEL chooses (R92). -/
def toneDec (p : Params) (cfg : BitVec 5) (b : List Byte) : Except ErrorKind Nat :=
  if cfgToneSel cfg then .ok (toneDecB b) else toneDecA p b

/-- FlagsEncA(power, width, scan) (R82). -/
def flagsEncA (power width scan : Bool) : Byte :=
  BitVec.ofNat 8 (((0xC + 2 * power.toNat + (1 - scan.toNat)) <<< 4) ||| (0xC + width.toNat))

/-- FlagsDecA(b), giving (power, width, scan); "parity is even" is the parity of the nibble's value
(R83, conflict C4). -/
def flagsDecA (b : Byte) : Except ErrorKind (Bool × Bool × Bool) :=
  if loNibble b = 0xC then .ok (decide (0xE ≤ hiNibble b), false, decide (hiNibble b % 2 = 0))
  else if loNibble b = 0xD then .ok (decide (0xE ≤ hiNibble b), true, decide (hiNibble b % 2 = 0))
  else .error .decodeError

/-- FlagsEncB(power, width, scan) (R84). -/
def flagsEncB (power width scan : Bool) : Byte :=
  BitVec.ofNat 8 (0xCC ||| (power.toNat <<< 5) ||| ((1 - scan.toNat) <<< 4) ||| width.toNat)

/-- FlagsDecB(b): power = b[5], width = b[0], scan = 1 - b[4]; never an error (R85). -/
def flagsDecB (b : Byte) : Bool × Bool × Bool := (b.getLsbD 5, b.getLsbD 0, !b.getLsbD 4)

/-- The flags encoder that CFG.FLAGSEL chooses (R93). -/
def flagsEnc (cfg : BitVec 5) (power width scan : Bool) : Byte :=
  if cfgFlagSel cfg then flagsEncB power width scan else flagsEncA power width scan

/-- The flags decoder that CFG.FLAGSEL chooses (R94). -/
def flagsDec (cfg : BitVec 5) (b : Byte) : Except ErrorKind (Bool × Bool × Bool) :=
  if cfgFlagSel cfg then .ok (flagsDecB b) else flagsDecA b

end Sys2Proof.Machine
end

