-- ==== Sys2Proof/Machine/FieldCommands.lean ====
section
/-! DEFINITION. The field-codec commands (40_field_codecs.md section 2, R88..R95).  Each executes in
one step and leaves TBL, IMG, ACTMASK, SSTATE and the transport alone. -/

namespace Sys2Proof.Machine

/-- A result as the machine's next state: a CODEC command never stops the machine (R157). -/
abbrev Result := Host.Outcome State Fault Refusal

/-- FENC: encode a frequency (R88). -/
def execFenc (s : State) : Result :=
  .next (s.finishField .encode ((freqEnc s.cfg s.arg.toNat).map resOfBytes))

/-- FDEC: decode a frequency field (R89). -/
def execFdec (s : State) : Result :=
  .next (s.finishField .decode ((freqDec s.cfg (argBytes s.arg 4)).map (BitVec.ofNat 32)))

/-- STEPF: compute the step flag (R90). -/
def execStepf (s : State) : Result :=
  .next (s.finishField .encode ((stepFlag s.arg.toNat).map (BitVec.setWidth 32)))

/-- TENC: encode a tone (R91). -/
def execTenc (s : State) : Result :=
  .next (s.finishField .encode ((toneEnc s.par s.cfg s.arg.toNat).map resOfBytes))

/-- TDEC: decode a tone field; ARG[31:16] is not read (R92). -/
def execTdec (s : State) : Result :=
  .next (s.finishField .decode ((toneDec s.par s.cfg (argBytes s.arg 2)).map (BitVec.ofNat 32)))

/-- GENC: encode the flags byte from power = ARG[0], width = ARG[1], scan = ARG[2] (R93). -/
def execGenc (s : State) : Result :=
  .next (s.succeed
    ((flagsEnc s.cfg (s.arg.getLsbD 0) (s.arg.getLsbD 1) (s.arg.getLsbD 2)).setWidth 32))

/-- RES of GDEC: p | w << 1 | s << 2 (R94). -/
def flagsWord (g : Bool × Bool × Bool) : Word :=
  0#29 ++ BitVec.ofBool g.2.2 ++ BitVec.ofBool g.2.1 ++ BitVec.ofBool g.1

/-- GDEC: decode the flags byte ARG[7:0] (R94). -/
def execGdec (s : State) : Result :=
  .next (s.finishField .decode ((flagsDec s.cfg (argByte s.arg 0)).map flagsWord))

/-- CSUM: checksum of an image record (R95). -/
def execCsum (slot : SlotIx) (s : State) : Result :=
  .next (s.succeed ((checksum (readRecord s.mem slot)).setWidth 32))

end Sys2Proof.Machine
end

