-- ==== Sys2Proof/Machine/RecordCodec.lean ====
section
/-! DEFINITION. The 32-byte channel record, the 16-record image and the active-channel mask (R53, R54,
R96..R109). -/

namespace Sys2Proof.Machine

open Sys2Proof.Config

/-- The bytes `bs` put into a record from offset `o` on. -/
def putBytes (r : List Byte) (o : Nat) : List Byte → List Byte
  | [] => r
  | b :: bs => putBytes (r.set o b) (o + 1) bs

/-- The pairs (offset, value) put into a record, in order. -/
def putPairs (r : List Byte) : List (Nat × Byte) → List Byte
  | [] => r
  | (o, v) :: ps => putPairs (r.set o v) ps

/-- EmptyRecord() (R96). -/
def emptyRecord (p : Params) (cfg : BitVec 5) : List Byte :=
  if cfgTplSel cfg then putPairs (List.replicate recLen emptyMarker) p.templateB
  else List.replicate recLen emptyMarker

/-- An error of a field function, with the record field it arose in (R98, R102). -/
def inField {α : Type} (fld : RecField) : Except ErrorKind α → Except (ErrorKind × RecField) α
  | .ok a => .ok a
  | .error k => .error (k, fld)

/-- A frequency's four bytes and its step flag, the frequency checked first (R98). -/
def encodeFreqStep (cfg : BitVec 5) (f : Word) (ff fs : RecField) :
    Except (ErrorKind × RecField) (List Byte × Byte) := do
  let fb ← inField ff (freqEnc cfg f.toNat)
  let st ← inField fs (stepFlag f.toNat)
  pure (fb, st)

/-- The computed fields of a record whose slot is in use (R98). -/
structure RecordFields where
  rf : List Byte
  rs : Byte
  rt : List Byte
  g : Byte
  /-- TX frequency, TX step flag and TX tone, when the transmit frequency is present. -/
  tx : Option (List Byte × Byte × List Byte)
  deriving DecidableEq, Repr

/-- The fields of a slot in use with a transmit frequency, in the order RXF, RXSTEP, TXF, TXSTEP,
RXT, TXT (R98). -/
def encodeDuplex (p : Params) (cfg : BitVec 5) (e : TblEntry) :
    Except (ErrorKind × RecField) RecordFields := do
  let rx ← encodeFreqStep cfg e.rxf .rxf .rxstep
  let tx ← encodeFreqStep cfg e.txf .txf .txstep
  let rt ← inField .rxt (toneEnc p cfg e.rxt.toNat)
  let tt ← inField .txt (toneEnc p cfg e.txt.toNat)
  pure { rf := rx.1, rs := rx.2, rt := rt, g := flagsEnc cfg e.power e.width e.scan,
         tx := some (tx.1, tx.2, tt) }

/-- The fields of a receive-only slot: TXF and TXT are not read (R98, R101). -/
def encodeReceiveOnly (p : Params) (cfg : BitVec 5) (e : TblEntry) :
    Except (ErrorKind × RecField) RecordFields := do
  let rx ← encodeFreqStep cfg e.rxf .rxf .rxstep
  let rt ← inField .rxt (toneEnc p cfg e.rxt.toNat)
  pure { rf := rx.1, rs := rx.2, rt := rt, g := flagsEnc cfg e.power e.width e.scan, tx := none }

/-- The transmit fields written into a record (R98). -/
def layTx (p : Params) (r : List Byte) : Option (List Byte × Byte × List Byte) → List Byte
  | none => r
  | some (tf, ts, tt) => putBytes ((putBytes r 6 tf).set p.stepTxOff ts) 14 tt

/-- The record with the fields of slot number `n` written into the empty record (R53, R98). -/
def layRecord (p : Params) (cfg : BitVec 5) (n : Nat) (x : RecordFields) : List Byte :=
  let r := (emptyRecord p cfg).set 0 (BitVec.ofNat 8 n)
  let r := (putBytes r 2 x.rf).set p.stepRxOff x.rs
  let r := (putBytes r 12 x.rt).set 17 x.g
  layTx p r x.tx

/-- EncodeRecord(e, s) for slot number `n` (R98): every field is computed before any byte is
written. -/
def encodeRecord (p : Params) (cfg : BitVec 5) (e : TblEntry) (n : Nat) :
    Except (ErrorKind × RecField) (List Byte) :=
  if e.rxv then
    match (if e.txv then encodeDuplex p cfg e else encodeReceiveOnly p cfg e) with
    | .ok x => .ok (layRecord p cfg n x)
    | .error kf => .error kf
  else .ok (emptyRecord p cfg)

/-- Byte `k` of a record. -/
def recByte (r : List Byte) (k : Nat) : Byte := r.getD k 0

/-- The `n` record bytes from offset `o` on. -/
def recSlice (r : List Byte) (o n : Nat) : List Byte := (r.drop o).take n

/-- A record is empty when byte 0 = 0xFF or byte 5 = 0xFF (R54). -/
def recordEmpty (r : List Byte) : Bool := recByte r 0 == emptyMarker || recByte r 5 == emptyMarker

/-- The transmit frequency of a non-empty record is absent when byte 9 = 0xFF (R103). -/
def recordTxAbsent (r : List Byte) : Bool := recByte r 9 == emptyMarker

/-- A receive-only record's entry, its fields in the order RXF, RXT, FLAGS (R102, R103). -/
def decodeReceiveOnly (p : Params) (cfg : BitVec 5) (r : List Byte) :
    Except (ErrorKind × RecField) TblEntry := do
  let rxf ← inField .rxf (freqDec cfg (recSlice r 2 4))
  let rxt ← inField .rxt (toneDec p cfg (recSlice r 12 2))
  let g ← inField .flags (flagsDec cfg (recByte r 17))
  pure { TblEntry.empty with
    rxv := true, rxf := BitVec.ofNat 32 rxf, rxt := BitVec.ofNat 16 rxt,
    power := g.1, width := g.2.1, scan := g.2.2 }

/-- A duplex record's entry, its fields in the order RXF, TXF, RXT, TXT, FLAGS (R102). -/
def decodeDuplex (p : Params) (cfg : BitVec 5) (r : List Byte) :
    Except (ErrorKind × RecField) TblEntry := do
  let rxf ← inField .rxf (freqDec cfg (recSlice r 2 4))
  let txf ← inField .txf (freqDec cfg (recSlice r 6 4))
  let rxt ← inField .rxt (toneDec p cfg (recSlice r 12 2))
  let txt ← inField .txt (toneDec p cfg (recSlice r 14 2))
  let g ← inField .flags (flagsDec cfg (recByte r 17))
  pure
    { rxv := true, txv := true, rxf := BitVec.ofNat 32 rxf, txf := BitVec.ofNat 32 txf,
      rxt := BitVec.ofNat 16 rxt, txt := BitVec.ofNat 16 txt,
      power := g.1, width := g.2.1, scan := g.2.2 }

/-- DecodeRecord(r) (R102). -/
def decodeRecord (p : Params) (cfg : BitVec 5) (r : List Byte) :
    Except (ErrorKind × RecField) TblEntry :=
  if recordEmpty r then .ok TblEntry.empty
  else if recordTxAbsent r then decodeReceiveOnly p cfg r
  else decodeDuplex p cfg r

/-- `f` at every slot of the list in order, stopping at the first error, which names its slot
(R108, R109). -/
def forSlots {α : Type} (f : SlotIx → Except (ErrorKind × RecField) α) :
    List SlotIx → Except (SlotIx × ErrorKind × RecField) (List α)
  | [] => .ok []
  | i :: is =>
    match f i with
    | .error kf => .error (i, kf)
    | .ok a =>
      match forSlots f is with
      | .error e => .error e
      | .ok as => .ok (a :: as)

/-- A slot is active when RXV = 1 and SCAN = 1 (R107). -/
def slotActive (m : Memory) (i : SlotIx) : Bool :=
  (readEntry m i).rxv && (readEntry m i).scan

/-- ActMask(): bit s-1 is cleared for every active slot s (R107). -/
def activeMask (m : Memory) : BitVec 16 :=
  allSlots.foldl
    (fun acc i => if slotActive m i then acc &&& ~~~(1#16 <<< i.val) else acc) 0xFFFF#16

/-- The sixteen records of the table, or the first error (R108). -/
def encodeTable (p : Params) (cfg : BitVec 5) (m : Memory) :
    Except (SlotIx × ErrorKind × RecField) (List (List Byte)) :=
  forSlots (fun i => encodeRecord p cfg (readEntry m i) i.number) allSlots

/-- The sixteen entries of the image, or the first error (R109). -/
def decodeImage (p : Params) (cfg : BitVec 5) (m : Memory) :
    Except (SlotIx × ErrorKind × RecField) (List TblEntry) :=
  forSlots (fun i => decodeRecord p cfg (readRecord m i)) allSlots

/-- IMG[1..16] <- the records in order (R108). -/
def writeImage (m : Memory) (rs : List (List Byte)) : Memory := m.writeBytes 0x200 rs.flatten

/-- TBL[1..16] <- the entries in order (R109). -/
def writeTable (m : Memory) (es : List TblEntry) : Memory :=
  m.writeBytes 0x100 (es.map TblEntry.bytes).flatten

/-- EncodeImage()'s writes: the sixteen records and ACTMASK, which is computed from TBL (R108). -/
def State.storeImage (s : State) (rs : List (List Byte)) : State :=
  { s with mem := writeImage s.mem rs, actMask := activeMask s.mem }

end Sys2Proof.Machine
end

