-- ==== Sys2Proof/Machine/RecordCommands.lean ====
section
/-! DEFINITION. The record-codec commands (41_record_codec.md section 5, R110..R114).  An error leaves
TBL, IMG, ACTMASK and RES as they were (R162). -/

namespace Sys2Proof.Machine

/-- AMASK: compute the active-channel mask (R110). -/
def execAmask (s : State) : Result :=
  .next ({ s with actMask := activeMask s.mem }.succeed ((activeMask s.mem).setWidth 32))

/-- RENC: encode one record; RES is its checksum (R111). -/
def execRenc (slot : SlotIx) (s : State) : Result :=
  .next (match encodeRecord s.par s.cfg (readEntry s.mem slot) slot.number with
    | .ok r => { s with mem := writeRecord s.mem slot r }.succeed ((checksum r).setWidth 32)
    | .error kf => s.endWithError (recordFailure .encode slot kf))

/-- RDEC: decode one record; RES is the entry's RXV (R112). -/
def execRdec (slot : SlotIx) (s : State) : Result :=
  .next (match decodeRecord s.par s.cfg (readRecord s.mem slot) with
    | .ok e =>
      { s with mem := writeEntry s.mem slot e }.succeed ((BitVec.ofBool e.rxv).setWidth 32)
    | .error kf => s.endWithError (recordFailure .decode slot kf))

/-- IENC: encode the whole table; RES is ACTMASK (R113). -/
def execIenc (s : State) : Result :=
  .next (match encodeTable s.par s.cfg s.mem with
    | .ok rs => (s.storeImage rs).succeed ((activeMask s.mem).setWidth 32)
    | .error (i, kf) => s.endWithError (recordFailure .encode i kf))

/-- IDEC: decode the whole image; RES is the number of slots in use (R114). -/
def execIdec (s : State) : Result :=
  .next (match decodeImage s.par s.cfg s.mem with
    | .ok es =>
      { s with mem := writeTable s.mem es }.succeed
        (BitVec.ofNat 32 (es.countP TblEntry.rxv))
    | .error (i, kf) => s.endWithError (recordFailure .decode i kf))

end Sys2Proof.Machine
end

