-- ==== Sys2Proof/Machine/SessionCommands.lean ====
section
/-! DEFINITION. The session commands (43_transaction_controller.md section 4, R153, R154): what the
step of the CMD write does.  The session's transport events follow, one per step of SEQ
(Sequencer.lean). -/

namespace Sys2Proof.Machine

/-- The end of a session that fails before its link is open: SSTATE <- Failed, `end_session()`, then
the error, with no termination sequence (R121, R154, D30). -/
def State.failUnopened (s : State) (f : Failure) : State :=
  ((s.setSession .failed).endSession).endWithError f

/-- RDALL: read all 16 slots (R153). -/
def execRdall (s : State) : Result :=
  .next s.latchSession.beginHandshake

/-- WRALL: write all 16 slots; the table is encoded before OPEN, and an error there ends the session
with no transport event (R154).  The encode is in the step of the CMD write (DEDUCED, log entry 7). -/
def execWrall (s : State) : Result :=
  .next (match encodeTable s.par s.cfg s.mem with
    | .ok rs => (s.latchSession.storeImage rs).beginHandshake
    | .error (i, kf) =>
      { s.latchSession with trace := [] }.failUnopened (recordFailure .encode i kf))

end Sys2Proof.Machine
end

