-- ==== Sys2Proof/Machine/Dispatch.lean ====
section
/-! DEFINITION. The meaning of every command (R48), one arm per constructor. -/

namespace Sys2Proof.Machine

def exec (i : Instr) (s : State) : Host.Outcome State Fault Refusal :=
  match i with
  | .fenc => Sys2Proof.Machine.execFenc s
  | .fdec => Sys2Proof.Machine.execFdec s
  | .stepf => Sys2Proof.Machine.execStepf s
  | .tenc => Sys2Proof.Machine.execTenc s
  | .tdec => Sys2Proof.Machine.execTdec s
  | .genc => Sys2Proof.Machine.execGenc s
  | .gdec => Sys2Proof.Machine.execGdec s
  | .csum slot => Sys2Proof.Machine.execCsum slot s
  | .amask => Sys2Proof.Machine.execAmask s
  | .renc slot => Sys2Proof.Machine.execRenc slot s
  | .rdec slot => Sys2Proof.Machine.execRdec slot s
  | .ienc => Sys2Proof.Machine.execIenc s
  | .idec => Sys2Proof.Machine.execIdec s
  | .rdall => Sys2Proof.Machine.execRdall s
  | .wrall => Sys2Proof.Machine.execWrall s

end Sys2Proof.Machine
end

