-- ==== Sys2Proof/Machine/HostPort.lean ====
section
/-! DEFINITION. The host port (20_memory.md, R28..R40): what a HOST read returns and what a HOST write
other than the command write changes. -/

namespace Sys2Proof.Machine

open Sys2Proof.Config

/-- The register at word address 4 k of the host space; 0 at a reserved address (R29, R35). -/
def State.regWord (s : State) (k : Nat) : Word :=
  match k with
  | 0 => s.cmd
  | 1 => s.arg
  | 2 => s.res
  | 3 => s.status.toWord
  | 4 => s.errInfo.toWord
  | 5 => s.cfg.setWidth 32
  | 6 => s.key1.setWidth 32
  | 7 => s.par.k2.setWidth 32
  | 8 => s.actMask.setWidth 32
  | _ => 0

/-- The byte at host address `a`, a register's bits [8k+7:8k] at its address + k (R29, R31). -/
def State.hostByte (s : State) (a : Nat) : Byte :=
  if a < 0x100 then (s.regWord (a / 4)).extractLsb' (8 * (a % 4)) 8 else s.mem.read a

/-- The `n` bytes from host address `a` on. -/
def State.hostBytes (s : State) : Nat → Nat → List Byte
  | _, 0 => []
  | a, n + 1 => s.hostByte a :: s.hostBytes (a + 1) n

/-- The value of a read of `n` bytes at `a`, little-endian (R31). -/
def State.hostValue (s : State) (n a : Nat) : Word := BitVec.ofNat 32 (leNat (s.hostBytes a n))

/-- The addresses whose reads are unspecified while BUSY = 1: RES, ACTMASK, TBL and IMG (R40). -/
def busyUnspecified (a : Nat) : Bool :=
  (decide (0x008 ≤ a) && decide (a < 0x00C)) || (decide (0x020 ≤ a) && decide (a < 0x024)) ||
    decide (0x100 ≤ a)

/-- A HOST read of `n` bytes at `a`: no effect on the block (R37); while BUSY = 1 a read of RES,
ACTMASK, TBL or IMG returns a fresh free value of `n` bytes (R40; log entry 3). -/
def State.hostRead (s : State) (n a : Nat) : State :=
  if s.status.busy && busyUnspecified a then
    { s with hostData := BitVec.ofNat 32 ((busyRead s.draws).toNat % 256 ^ n), draws := s.draws + 1 }
  else { s with hostData := s.hostValue n a }

/-- The word `w` with the `n` bytes from byte `k` on replaced by the low bytes of `v` (R31). -/
def mergeBytes (w : Word) (k n : Nat) (v : Word) : Word :=
  BitVec.ofNat 32
    (leNat ((leBytes 4 w.toNat).take k ++ leBytes n v.toNat ++ (leBytes 4 w.toNat).drop (k + n)))

/-- A HOST write of `n` bytes at `a` that issues no command: it changes ARG, CFG, KEY1, TBL or IMG.
A write to CMD of 1 or 2 bytes, to a read-only register, to a reserved address or to reserved bits
is ignored (R35, R36, R38). -/
def State.hostStore (s : State) (n a : Nat) (v : Word) : State :=
  if a < 0x100 then
    match a / 4 with
    | 1 => { s with arg := mergeBytes s.arg (a % 4) n v }
    | 5 => { s with cfg := (mergeBytes (s.cfg.setWidth 32) (a % 4) n v).setWidth 5 }
    | 6 => { s with key1 := (mergeBytes (s.key1.setWidth 32) (a % 4) n v).setWidth 8 }
    | _ => s
  else { s with mem := s.mem.writeBytes a (leBytes n v.toNat) }

/-- What is wrong with a HOST access, if anything (R28, R34).  The order of the three is a DESIGN
CHOICE, log entry 14. -/
def accessRefusal (n a : Nat) : Option Refusal :=
  if !accessWidthOk n then some .accessWidth
  else if !accessInSpace n a then some .outsideHostSpace
  else if !accessAligned n a then some .misalignedAccess
  else none

/-- Whether a write of `n` bytes at `a` is the one that issues a command: 4 bytes at CMD (R36). -/
def isCommandWrite (n a : Nat) : Bool := n == 4 && a == 0

end Sys2Proof.Machine
end

