-- ==== Sys2Proof/Decode.lean ====
section
/-! DEFINITION. The decoder of command words (R47, R48, R49), total on every 32-bit word and rejecting
by name, and the encoder written from the same table. -/

namespace Sys2Proof

/-- Why a command word is illegal (R49).  All three end in the error IllegalCommand. -/
inductive DecodeReject where
  /-- OP is not in the map of R48. -/
  | unmappedOp
  /-- CMD[31:12] is not zero. -/
  | reservedBits
  /-- SLOTM1 is not zero and OP is none of CSUM, RENC, RDEC. -/
  | slotNotTaken
  deriving DecidableEq, Repr

/-- A command without a slot: SLOTM1 must be 0 (R47, R49). -/
def decodePlain (i : Instr) (slotm1 : BitVec 4) : Except DecodeReject Instr :=
  if slotm1 = 0 then .ok i else .error .slotNotTaken

/-- The opcode map of R48. -/
def decodeOp (op : BitVec 8) (slotm1 : BitVec 4) : Except DecodeReject Instr :=
  match op.toNat with
  | 0x01 => decodePlain .fenc slotm1
  | 0x02 => decodePlain .fdec slotm1
  | 0x03 => decodePlain .stepf slotm1
  | 0x04 => decodePlain .tenc slotm1
  | 0x05 => decodePlain .tdec slotm1
  | 0x06 => decodePlain .genc slotm1
  | 0x07 => decodePlain .gdec slotm1
  | 0x08 => .ok (.csum slotm1.toFin)
  | 0x09 => decodePlain .amask slotm1
  | 0x10 => .ok (.renc slotm1.toFin)
  | 0x11 => .ok (.rdec slotm1.toFin)
  | 0x12 => decodePlain .ienc slotm1
  | 0x13 => decodePlain .idec slotm1
  | 0x20 => decodePlain .rdall slotm1
  | 0x21 => decodePlain .wrall slotm1
  | _ => .error .unmappedOp

/-- The command a word stands for, or the name of what makes it illegal (R49). -/
def decode (w : Word) : Except DecodeReject Instr :=
  if wordReserved w = 0 then decodeOp (wordOp w) (wordSlot w) else .error .reservedBits

/-- The OP field of a command (R48). -/
def Instr.op : Instr → BitVec 8
  | .fenc => 0x01
  | .fdec => 0x02
  | .stepf => 0x03
  | .tenc => 0x04
  | .tdec => 0x05
  | .genc => 0x06
  | .gdec => 0x07
  | .csum _ => 0x08
  | .amask => 0x09
  | .renc _ => 0x10
  | .rdec _ => 0x11
  | .ienc => 0x12
  | .idec => 0x13
  | .rdall => 0x20
  | .wrall => 0x21

/-- The SLOTM1 field of a command: its slot's for CSUM, RENC and RDEC, 0 for every other (R47). -/
def Instr.slotField : Instr → BitVec 4
  | .csum s | .renc s | .rdec s => BitVec.ofFin s
  | _ => 0

/-- The command word of a command: reserved bits 0, SLOTM1, OP (R47). -/
def encode (i : Instr) : Word := 0#20 ++ i.slotField ++ i.op

/-- The command read from a table row's bits `w`, numbered as the opcode table numbers them: the
command word is the 32-bit value itself, and every bit above `nbits` is 0. -/
def decodeTableWord (nbits w : Nat) : Option Instr :=
  (decode (BitVec.ofNat 32 (w % 2 ^ nbits))).toOption

end Sys2Proof
end

