-- ==== Sys2Proof/Machine/Sequencer.lean ====
section
/-! DEFINITION. SEQ's steps (R3, R24): the handshake (R121..R132), the read and write transactions
(R138..R146) and the termination sequence (R147..R149), one transport event per step.  What a rule
does between two events is done in the step of the earlier one, but for SSTATE <- Active, which R131
puts in the next step. -/

namespace Sys2Proof.Machine

open Sys2Proof.Config

/-! ## Frames (R56) -/

/-- DESC(c, a, n) in clear: command byte, address-high, address-low, length (R138). -/
def descBytes (c : Byte) (a : BitVec 16) (n : Nat) : List Byte :=
  [c, a.extractLsb' 8 8, a.extractLsb' 0 8, BitVec.ofNat 8 n]

/-- The two data bytes of the bitmask write (R145). -/
def maskBytes (m : BitVec 16) : List Byte := [m.extractLsb' 0 8, m.extractLsb' 8 8]

/-- The plaintext data of a write transaction (R143, R144, R145). -/
def State.writeBytesOf (s : State) : Target → List Byte
  | .scanKey => s.par.scanKeyData
  | .mask => maskBytes s.actMask
  | .slot => readRecordOf s.mem s.seq.slot

/-- The device address of a write transaction (R143, R144, R145). -/
def State.writeAddrOf (s : State) : Target → BitVec 16
  | .scanKey => s.par.scanKeyAddr
  | .mask => s.par.maskAddr
  | .slot => slotAddr s.par s.seq.slot

/-- The outbound frame of a phase, as it goes on the wire (R56, R117); empty for a phase that sends
nothing. -/
def State.frame (s : State) : SeqPhase → List Byte
  | .progReq => s.par.progReq
  | .verReq => [s.par.verReq]
  | .keySend => [s.k1s]
  | .conf1 => [conf ^^^ s.k1s]
  | .mark => [s.par.marker ^^^ s.par.k2]
  | .conf2 => [conf ^^^ s.par.k2]
  | .readDesc => xorBytes s.par.k2 (descBytes s.par.cmdRead (slotAddr s.par s.seq.slot) recLen)
  | .readAck => [conf ^^^ s.par.k2]
  | .writeDesc t =>
    xorBytes s.par.k2 (descBytes s.par.cmdWrite (s.writeAddrOf t) (s.writeBytesOf t).length)
  | .writeData t => xorBytes s.par.k2 (s.writeBytesOf t)
  | .writeSum t => [checksum (s.writeBytesOf t) ^^^ s.par.k2]
  | .termSend => [s.par.endCode ^^^ s.par.k2]
  | _ => []

/-! ## What follows a frame or a check -/

/-- The phase after MARK: RESP, unless RESP_LEN = 0, when no RX event occurs (R130). -/
def State.afterMark (s : State) : SeqPhase := if s.par.respLen = 0 then .conf2 else .resp

/-- The phase after the data block of a read transaction (R140). -/
def State.afterReadData (s : State) : SeqPhase :=
  match s.par.readAckMode with
  | .sendThenCheck => .readAck
  | .checkOnly => .readCheck

/-- The phase after a frame has been sent whole. -/
def State.afterFrame (s : State) : SeqPhase → SeqPhase
  | .progReq => .listen
  | .verReq => .ident
  | .keySend => .conf1
  | .conf1 => .conf1Echo
  | .mark => s.afterMark
  | .conf2 => .conf2Echo
  | .readDesc => .readData
  | .readAck => .readCheck
  | .writeDesc t => .writeData t
  | .writeData t => .writeSum t
  | .writeSum t => .writeCheck t
  | .termSend => .termCheck
  | p => p

/-- SSTATE <- Active, in the step after the one that made it KeyExchanged: the first byte of the
first transaction (R131; DEDUCED, log entry 6). -/
def State.activate (s : State) : State :=
  if s.status.sstate = .keyExchanged then s.setSession .active else s

/-- TX of the next byte of the frame of phase `p` (R135, R138); with the last byte the phase ends. -/
def State.sendFrame (s : State) (p : SeqPhase) : State :=
  match (s.frame p)[s.seq.sent]? with
  | some b =>
    if s.seq.sent + 1 < (s.frame p).length then
      { s.emit (.tx b) with seq := { s.seq with sent := s.seq.sent + 1 } }
    else (s.emit (.tx b)).goto (s.afterFrame p)
  | none => s.goto (s.afterFrame p)

/-! ## Checks -/

/-- The error of a read that timed out (R118, R123, R128, R130, R139, R160). -/
def timeoutFailure (ph : ErrPhase) (slot : Nat) (exp : Byte) : Failure :=
  { kind := .timeout,
    info := { exp := exp, act := 0, slot := BitVec.ofNat 5 slot, field := .none, phase := ph } }

/-- The error of a failed confirmation check; `act` is the decrypted byte (R118, R160). -/
def mismatchFailure (ph : ErrPhase) (slot : Nat) (act : Byte) : Failure :=
  { kind := .confirmationMismatch,
    info := { exp := conf, act := act, slot := BitVec.ofNat 5 slot, field := .none, phase := ph } }

/-- What CHECK(key, phase, slot) finds in the answer to its RX(1): nothing, or an error (R118). -/
def checkFailure (key : Byte) (ph : ErrPhase) (slot : Nat) : Option (List Byte) → Option Failure
  | none => some (timeoutFailure ph slot conf)
  | some bs =>
    if recByte bs 0 ^^^ key = conf then none
    else some (mismatchFailure ph slot (recByte bs 0 ^^^ key))

/-- CHECK(key, phase, slot): one RX, then `pass` or the failure path (R118, R119). -/
def State.check (s : State) (key : Byte) (ph : ErrPhase) (slot : Nat) (pass : State → State) :
    State :=
  match checkFailure key ph slot (s.rxAnswer 1) with
  | none => pass (s.afterRx 1)
  | some f => (s.afterRx 1).fail f

/-- `RX(n)` whose bytes `pass` takes, or the failure path on TIMEOUT (EXP 0x00, ACT 0x00: R128,
R130, R139). -/
def State.receive (s : State) (n : Nat) (ph : ErrPhase) (slot : Nat)
    (pass : List Byte → State → State) : State :=
  match s.rxAnswer n with
  | none => (s.afterRx n).fail (timeoutFailure ph slot 0)
  | some bs => pass bs (s.afterRx n)

/-! ## The handshake's steps -/

/-- Step OPEN (R121). -/
def State.stepOpen (s : State) : State :=
  if s.openAnswer then
    { s.answered.emit (.openLink true) with
      status := { s.status with link := true, baudHi := false } }.goto .progReq
  else
    (s.answered.emit (.openLink false)).failUnopened (fieldFailure .openLink .transportUnavailable)

/-- Step LISTEN (R123). -/
def State.stepListen (s : State) : State :=
  match s.rxAnswer 1 with
  | none => (s.afterRx 1).fail (timeoutFailure .hsListen 0 s.par.listenCode)
  | some bs =>
    if recByte bs 0 = s.par.listenCode then ((s.afterRx 1).setSession .listening).goto .baud
    else
      (s.afterRx 1).fail
        { kind := .handshakeRejected,
          info := { ErrInfo.clear with
            exp := s.par.listenCode, act := recByte bs 0, phase := .hsListen } }

/-- Step BAUD (R125). -/
def State.stepBaud (s : State) : State :=
  { s.emit (.baud s.par.baudHigh) with status := { s.status with baudHi := true } }.goto .echo0

/-- The first transaction of the session: slot 1's read for RDALL, the scan-toggle write for WRALL
(R153, R154). -/
def State.firstTransaction (s : State) : State :=
  if s.seq.op = some Instr.rdall.op then (s.setSlot 1).goto .readDesc
  else s.goto (.writeDesc .scanKey)

/-! ## The transactions' steps -/

/-- The end of the last transaction: SSTATE <- Terminated, then the termination sequence (R149), which
is outside the channel loop, so SEQ.SLOT is 0 (R24). -/
def State.finishLoop (s : State) : State :=
  ((s.setSlot 0).setSession .terminated).goto .termSend

/-- The channel loop goes on to the next slot, or ends after slot 16 (R146). -/
def State.nextSlot (s : State) (p : SeqPhase) : State :=
  if s.seq.slot < nSlots then (s.setSlot (s.seq.slot + 1)).goto p else s.finishLoop

/-- A read transaction whose check passed: IMG[s] <- STAGE, and the slot is counted (R139, R141).  STAGE
keeps its bytes until the next data block, as it does after a failed transaction and after the
session (DESIGN CHOICE, log entry 17). -/
def State.commitRead (s : State) : State :=
  ({ s with mem := s.mem.writeBytes (imgAddrOf s.seq.slot) s.stage }.countSlot).nextSlot .readDesc

/-- ERRINFO.PHASE of a write transaction's check (R143, R144, R145). -/
def Target.errPhase : Target → ErrPhase
  | .scanKey => .scanKey
  | .mask => .mask
  | .slot => .slotAck

/-- The slot of a write transaction's check: that of the channel loop, else 0 (R143..R145). -/
def State.checkSlot (s : State) : Target → Nat
  | .slot => s.seq.slot
  | _ => 0

/-- A write transaction whose check passed: the bitmask write follows the scan-toggle write in a
legacy session (R145), then the slots in ascending order (R146, R154). -/
def State.commitWrite (s : State) : Target → State
  | .scanKey =>
    if cfgPvar s.latchedCfg then (s.setSlot 1).goto (.writeDesc .slot)
    else s.goto (.writeDesc .mask)
  | .mask => (s.setSlot 1).goto (.writeDesc .slot)
  | .slot => s.countSlot.nextSlot (.writeDesc .slot)

/-! ## Termination -/

/-- The check of the termination sequence.  On the failure path a failed check sets TERMFAIL and the
first error stands (R148, R164); on the success path it is the session's error (R149). -/
def State.stepTermCheck (s : State) : State :=
  match checkFailure s.par.k2 .term 0 (s.rxAnswer 1) with
  | none => (s.afterRx 1).goto .termClose
  | some f =>
    match s.seq.error with
    | some _ =>
      { s.afterRx 1 with status := { s.status with termFail := true } }.goto .termClose
    | none =>
      { s.afterRx 1 with seq := { s.seq with error := some f } }.goto .termClose

/-- CLOSE, `end_session()` and the session's outcome (R148, R149, R150). -/
def State.stepTermClose (s : State) : State :=
  match s.seq.error with
  | some f => (((s.emit .close).endSession).setSession .failed).endWithError f
  | none => { (s.emit .close).endSession with
      status := (s.emit .close).endSession.status.succeeded,
      seq := { (s.emit .close).endSession.seq with op := none } }

/-! ## The sequencer -/

/-- One step of SEQ at phase `p`. -/
def State.seqPhase (s : State) : SeqPhase → State
  | .idle => s
  | .openLink => s.stepOpen
  | .progReq => s.sendFrame .progReq
  | .listen => s.stepListen
  | .baud => s.stepBaud
  | .echo0 => s.check s.k1s .hsConf1 0 (·.goto .verReq)
  | .verReq => s.sendFrame .verReq
  | .ident => s.receive identLen .hsIdent 0 fun _ t => t.goto .keySend
  | .keySend => s.sendFrame .keySend
  | .conf1 => s.sendFrame .conf1
  | .conf1Echo => s.check s.k1s .hsConf2 0 (·.goto .mark)
  | .mark => s.sendFrame .mark
  | .resp => s.receive s.par.respLen .hsResp 0 fun _ t => t.goto .conf2
  | .conf2 => s.sendFrame .conf2
  | .conf2Echo =>
    s.check s.par.k2 .hsConf3 0 fun t => (t.setSession .keyExchanged).firstTransaction
  | .readDesc => s.activate.sendFrame .readDesc
  | .readData =>
    s.receive recLen .slotData s.seq.slot fun d t =>
      { t with stage := xorBytes s.par.k2 d }.goto t.afterReadData
  | .readAck => s.sendFrame .readAck
  | .readCheck => s.check s.par.k2 .slotAck s.seq.slot (·.commitRead)
  | .writeDesc t => s.activate.sendFrame (.writeDesc t)
  | .writeData t => s.sendFrame (.writeData t)
  | .writeSum t => s.sendFrame (.writeSum t)
  | .writeCheck t => s.check s.par.k2 t.errPhase (s.checkSlot t) (·.commitWrite t)
  | .termSend => s.sendFrame .termSend
  | .termCheck => s.stepTermCheck
  | .termClose => s.stepTermClose

/-- One step of SEQ: a transport event of the running session; none while no command runs (R171). -/
def State.seqStep (s : State) : State :=
  if s.status.busy then s.seqPhase s.seq.phase else s

end Sys2Proof.Machine
end

