-- ==== Sys2Proof/Machine/Issue.lean ====
section
/-! DEFINITION. Starting a command (R50, R51) and one act of the outside at the host port: a write
(R36, R40, R176), a read (R37), POLL (R52), a wait, the reset input (R173). -/

namespace Sys2Proof.Machine

/-- Starting a command (R50): an illegal word ends at once with IllegalCommand (R49); a legal one is
executed. -/
def issue (w : Word) (s : State) : Host.Outcome State Fault Refusal :=
  match decode w with
  | .ok i => exec i (s.startCommand w)
  | .error _ => .next ((s.startCommand w).endWithError illegalCommandFailure)

/-- A well-formed HOST write: dropped while BUSY = 1 (R40, R176); a command write starts the command
(R36, R50); any other changes what it covers. -/
def hostWrite (n a : Nat) (v : Word) (s : State) : Host.Outcome State Fault Refusal :=
  if s.status.busy then .next s
  else if isCommandWrite n a then issue v s
  else .next (s.hostStore n a v)

/-- The next act of the outside, `rest` being what comes after it.  While a session runs, POLL and a
wait leave the step to SEQ (DESIGN CHOICE, log entry 5). -/
def hostAct (act : HostAct) (rest : List HostAct) (s : State) :
    Host.Outcome State Fault Refusal :=
  match act with
  | .write n a v =>
    match accessRefusal n a with
    | some r => .refused r
    | none => hostWrite n a v { s with hostQueue := rest }
  | .read n a =>
    match accessRefusal n a with
    | some r => .refused r
    | none => .next ({ s with hostQueue := rest }.hostRead n a)
  | .poll =>
    if s.status.busy then .next s.seqStep
    else .next ({ s with hostQueue := rest }.hostRead 4 0x00C)
  | .wait => .next { s with hostQueue := rest }.seqStep
  | .reset => .next { s with hostQueue := rest }.resetInput

/-- One step of the whole: the next act at the host port, or SEQ's step when nothing is pending
there (R3). -/
def runStep (s : State) : Host.Outcome State Fault Refusal :=
  match s.hostQueue with
  | [] => .next s.seqStep
  | act :: rest => hostAct act rest s

/-- The state with the write of command word `w` to CMD pending before everything else at the host
port. -/
def withCommandWord (s : State) (w : Word) : State :=
  { s with hostQueue := .write 4 0 w :: s.hostQueue }

end Sys2Proof.Machine
end

