-- ==== Sys2Proof/Machine/Step.lean ====
section
/-! DEFINITION. One step of the machine, and the state that runs a given command next. -/

namespace Sys2Proof.Machine

/-- One step: an act of HOST or one transport event of SEQ (R3). -/
def step (s : State) : Host.Outcome State Fault Refusal := runStep s

/-- `s` with the command word `w` pending as HOST's next write to CMD.  A command word is 32 bits and
is not fetched from memory (R43): HOST writes it (log entry 5). -/
def State.withFetchWord (s : State) (nbits w : Nat) : State :=
  withCommandWord s (BitVec.ofNat 32 (w % 2 ^ nbits))

end Sys2Proof.Machine
end

