-- ==== Sys2Proof/Machine/Assembler.lean ====
section
/-! DEFINITION. The assembler's pseudo-operations (R52) as the HOST acts they expand to. -/

namespace Sys2Proof.Machine

/-- `CMD m` is `W32 0x000, word(m)` (R52). -/
def asmCmd (i : Instr) : List HostAct := [.write 4 0x000 (encode i)]

/-- `LOADCH s, rxf, txf, rxt, txt, flags` (R52). -/
def asmLoadCh (i : SlotIx) (rxf txf rxt txt flags : Word) : List HostAct :=
  [.write 4 (tblAddr i) rxf, .write 4 (tblAddr i + 4) txf, .write 2 (tblAddr i + 8) rxt,
   .write 2 (tblAddr i + 10) txt, .write 1 (tblAddr i + 12) flags]

/-- `READ_ALL_CHANNELS` is `CMD RDALL; POLL` (R52). -/
def asmReadAllChannels : List HostAct := asmCmd .rdall ++ [.poll]

/-- `DECODE_ALL` is `CMD IDEC` (R52). -/
def asmDecodeAll : List HostAct := asmCmd .idec

/-- `WRITE_CHANNELS` is `CMD WRALL; POLL` (R52). -/
def asmWriteChannels : List HostAct := asmCmd .wrall ++ [.poll]

end Sys2Proof.Machine
end

