-- ==== Sys2Proof/Safety.lean ====
section
/-! DEFINITION. What counts as a safe state, in the terms the statements use: the consistency of the
registers, the sequencer position, the line and the buffers that the rules give between two steps. -/

namespace Sys2Proof.Machine

open Sys2Proof.Config

/-- The buffers are in canonical form and STAGE has its 32 bytes (R20, R22, R25). -/
def State.buffersOk (s : State) : Bool := s.mem.wf && s.stage.length == 32

/-- STATUS and ERRINFO agree: ECODE is 0 exactly when ERR = 0 (R13), ERRINFO is 0 when ERR = 0 (R14),
an error is one of a finished command, a running command is neither done nor in error (R50), and
TERMFAIL is set in a failed session only (R13). -/
def State.statusOk (s : State) : Bool :=
  s.status.err == s.status.ecode.isSome &&
  (s.status.err || s.errInfo == ErrInfo.clear) &&
  (!s.status.err || s.status.done) &&
  (!s.status.busy || !s.status.done) &&
  (!s.status.termFail || s.status.sstate == .failed)

/-- Between commands the sequencer is at IDLE, the session's key is discarded and the transport is
closed (R24, R150, R151). -/
def State.idleOk (s : State) : Bool :=
  s.seq.op.isNone && s.seq.phase == .idle && s.seq.sent == 0 && s.seq.slot == 0 &&
  s.seq.error.isNone && s.k1s == 0 && !s.status.link && !s.status.baudHi &&
  decide (s.seq.doneSlots ≤ 16)

/-- The phases that send a frame (R56). -/
def SeqPhase.sends : SeqPhase → Bool
  | .progReq | .verReq | .keySend | .conf1 | .mark | .conf2 | .readDesc | .readAck
  | .writeDesc _ | .writeData _ | .writeSum _ | .termSend => true
  | _ => false

/-- The frame under way has bytes left to send; a phase that sends nothing has sent nothing. -/
def State.sentOk (s : State) : Bool :=
  if s.seq.phase.sends then decide (s.seq.sent < (s.frame s.seq.phase).length) else s.seq.sent == 0

/-- A step of the handshake: no slot, no error, SSTATE and the line rate as given (R121..R131). -/
def State.handshakeOk (s : State) (v : SessionState) (baudHi : Bool) : Bool :=
  s.status.sstate == v && s.status.baudHi == baudHi && s.seq.slot == 0 && s.seq.doneSlots == 0 &&
  s.seq.error.isNone

/-- A step of the channel loop: the slot is one of 1..16, the slots below it are done (R146), the
session is Active at the higher rate. -/
def State.loopOk (s : State) : Bool :=
  s.status.baudHi && s.seq.error.isNone && decide (1 ≤ s.seq.slot) && decide (s.seq.slot ≤ 16) &&
  s.seq.doneSlots + 1 == s.seq.slot

/-- SSTATE is Active, or KeyExchanged before the first byte of the first transaction (R131). -/
def State.openingOk (s : State) : Bool :=
  s.status.sstate == .active || (s.status.sstate == .keyExchanged && s.seq.sent == 0)

/-- What each phase of a running session says of the rest of the state. -/
def State.phaseOk (s : State) : Bool :=
  match s.seq.phase with
  | .idle => false
  | .openLink | .progReq | .listen => s.handshakeOk .idle false
  | .baud => s.handshakeOk .listening false
  | .echo0 | .verReq | .ident | .keySend | .conf1 | .conf1Echo | .mark | .resp | .conf2
  | .conf2Echo => s.handshakeOk .listening true
  | .readDesc => s.loopOk && s.openingOk && s.seq.op == some Instr.rdall.op
  | .readData | .readAck | .readCheck =>
    s.loopOk && s.status.sstate == .active && s.seq.op == some Instr.rdall.op
  | .writeDesc .scanKey =>
    s.status.baudHi && s.seq.error.isNone && s.seq.slot == 0 && s.seq.doneSlots == 0 &&
    s.openingOk && s.seq.op == some Instr.wrall.op
  | .writeData .scanKey | .writeSum .scanKey | .writeCheck .scanKey =>
    s.handshakeOk .active true && s.seq.op == some Instr.wrall.op
  | .writeDesc .mask | .writeData .mask | .writeSum .mask | .writeCheck .mask =>
    s.handshakeOk .active true && s.seq.op == some Instr.wrall.op && !cfgPvar s.latchedCfg
  | .writeDesc .slot | .writeData .slot | .writeSum .slot | .writeCheck .slot =>
    s.loopOk && s.status.sstate == .active && s.seq.op == some Instr.wrall.op
  | .termSend | .termCheck =>
    s.seq.slot == 0 && decide (s.seq.doneSlots ≤ 16) &&
    match s.seq.error with
    | some _ => s.status.sstate == .failed
    | none => s.status.sstate == .terminated && s.seq.doneSlots == 16 && s.status.baudHi
  | .termClose =>
    s.seq.slot == 0 && decide (s.seq.doneSlots ≤ 16) &&
    match s.seq.error with
    | some _ => s.status.sstate == .failed ||
        (s.status.sstate == .terminated && s.seq.doneSlots == 16 && !s.status.termFail)
    | none => s.status.sstate == .terminated && s.seq.doneSlots == 16

/-- A running session: a session command is executing with the key of its latched configuration
(R115), the link is open from the step after OPEN on (R26, R121), and TERMFAIL appears only at
CLOSE (R148). -/
def State.sessionOk (s : State) : Bool :=
  (s.seq.op == some Instr.rdall.op || s.seq.op == some Instr.wrall.op) &&
  s.k1s == sessionKey s.latchedCfg s.latchedKey1 &&
  s.status.link == (s.seq.phase != .openLink) &&
  (!s.status.termFail || s.seq.phase == .termClose) &&
  s.sentOk && s.phaseOk

/-- The state is one that the rules allow between two steps. -/
def State.consistent (s : State) : Bool :=
  s.buffersOk && s.statusOk && (if s.status.busy then s.sessionOk else s.idleOk)

/-- `k` steps of the machine, stopping at a refusal. -/
def steps (k : Nat) (s : State) : Host.Outcome State Fault Refusal := Sys2Proof.core.run k s

/-! ## The terms of the statements -/

/-- The number whose hexadecimal digits spell the `n` low decimal digits of `f` (R88: "RES read as hex
spells f's eight decimal digits"). -/
def spellDecimal : Nat → Nat → Nat
  | _, 0 => 0
  | f, n + 1 => f % 10 + 16 * spellDecimal (f / 10) n

/-- The sum of the `n` low nibbles of `w`, the j-th weighted by 10^j (R64, R68). -/
def readDecimal : Nat → Nat → Nat
  | _, 0 => 0
  | w, n + 1 => w % 16 + 10 * readDecimal (w / 16) n

/-- The `n` low nibbles of `w` are decimal digits (R64). -/
def nibblesDecimal : Nat → Nat → Bool
  | _, 0 => true
  | w, n + 1 => decide (w % 16 ≤ 9) && nibblesDecimal (w / 16) n

/-- The CODEC commands, OP 0x01..0x13 (R51). -/
def isCodec : Instr → Bool
  | .rdall | .wrall => false
  | _ => true

/-- The byte at offset `k` of the empty record (R96). -/
def emptyByte (p : Params) (cfg : BitVec 5) (k : Nat) : Byte :=
  if cfgTplSel cfg then ((p.templateB.find? fun ov => ov.1 == k).map Prod.snd).getD 0xFF else 0xFF

/-- The frequency is in the range of the variant CFG.FREQSEL chooses (R62, R66). -/
def freqEncodable (cfg : BitVec 5) (f : Nat) : Bool :=
  decide (f ≤ 99999999) && (cfgFreqSel cfg || decide (10000000 ≤ f))

/-- The tone is one the variant CFG.TONESEL chooses encodes (R76, R79). -/
def toneEncodable (p : Params) (cfg : BitVec 5) (t : Nat) : Bool :=
  if cfgToneSel cfg then decide (t ≤ 0xFFFF)
  else t == 0 || p.toneTableA.any fun e => e.tone.toNat == t

/-- The checks of a record encode in their order, each with the field it names (R98, R165). -/
def encodeChecks (p : Params) (cfg : BitVec 5) (e : TblEntry) : List (Bool × RecField) :=
  [(freqEncodable cfg e.rxf.toNat, .rxf), (e.rxf.toNat % 250 == 0, .rxstep)] ++
  (if e.txv then [(freqEncodable cfg e.txf.toNat, .txf), (e.txf.toNat % 250 == 0, .txstep)]
    else []) ++
  [(toneEncodable p cfg e.rxt.toNat, .rxt)] ++
  (if e.txv then [(toneEncodable p cfg e.txt.toNat, .txt)] else [])

/-- The field of the first check of a record encode that fails, if one does (R98, R100). -/
def firstEncodeError (p : Params) (cfg : BitVec 5) (e : TblEntry) : Option RecField :=
  if e.rxv then ((encodeChecks p cfg e).find? fun c => !c.1).map Prod.snd else none

/-- The byte at offset `k` of the record of entry `e` in slot number `n`, for a slot in use whose
fields encode (R53, R98, R99, R101). -/
def recordByte (p : Params) (cfg : BitVec 5) (e : TblEntry) (n k : Nat) : Byte :=
  if k = 0 then BitVec.ofNat 8 n
  else if 2 ≤ k ∧ k < 6 then ((freqEnc cfg e.rxf.toNat).toOption.getD []).getD (k - 2) 0
  else if k = p.stepRxOff then (stepFlag e.rxf.toNat).toOption.getD 0
  else if 12 ≤ k ∧ k < 14 then ((toneEnc p cfg e.rxt.toNat).toOption.getD []).getD (k - 12) 0
  else if k = 17 then flagsEnc cfg e.power e.width e.scan
  else if e.txv ∧ 6 ≤ k ∧ k < 10 then
    ((freqEnc cfg e.txf.toNat).toOption.getD []).getD (k - 6) 0
  else if e.txv ∧ k = p.stepTxOff then (stepFlag e.txf.toNat).toOption.getD 0
  else if e.txv ∧ 14 ≤ k ∧ k < 16 then
    ((toneEnc p cfg e.txt.toNat).toOption.getD []).getD (k - 14) 0
  else emptyByte p cfg k

/-- The four bytes decode in the variant CFG.FREQSEL chooses (R64, R68). -/
def freqDecodable (cfg : BitVec 5) (b : List Byte) : Bool :=
  cfgFreqSel cfg || b.all fun x => decide (x.toNat / 16 ≤ 9) && decide (x.toNat % 16 ≤ 9)

/-- The two bytes decode in the variant CFG.TONESEL chooses (R77, R80). -/
def toneDecodable (p : Params) (cfg : BitVec 5) (b : List Byte) : Bool :=
  cfgToneSel cfg || b == p.noToneA || p.toneTableA.any fun e => e.bytes == b

/-- The flags byte decodes in the variant CFG.FLAGSEL chooses (R83, R85). -/
def flagsDecodable (cfg : BitVec 5) (b : Byte) : Bool :=
  cfgFlagSel cfg || b.toNat % 16 == 0xC || b.toNat % 16 == 0xD

/-- The checks of the decode of a non-empty record in their order (R102, R165). -/
def decodeChecks (p : Params) (cfg : BitVec 5) (r : List Byte) : List (Bool × RecField) :=
  [(freqDecodable cfg (recSlice r 2 4), .rxf)] ++
  (if recordTxAbsent r then [] else [(freqDecodable cfg (recSlice r 6 4), .txf)]) ++
  [(toneDecodable p cfg (recSlice r 12 2), .rxt)] ++
  (if recordTxAbsent r then [] else [(toneDecodable p cfg (recSlice r 14 2), .txt)]) ++
  [(flagsDecodable cfg (recByte r 17), .flags)]

/-- The field of the first check of a record decode that fails, if one does (R54, R102). -/
def firstDecodeError (p : Params) (cfg : BitVec 5) (r : List Byte) : Option RecField :=
  if recordEmpty r then none else ((decodeChecks p cfg r).find? fun c => !c.1).map Prod.snd

/-- The offsets that the decode of a record reads (R102, R105). -/
def decodeReads (k : Nat) : Bool :=
  decide (2 ≤ k ∧ k < 10) || decide (12 ≤ k ∧ k < 16) || k == 17

/-- The bits of the byte at host address `x` that a HOST write changes, `none` where a write is
ignored (R29, R35, R38): ARG, CFG[4:0], KEY1[7:0], TBL and IMG. -/
def writableBits (x : Nat) : Option Byte :=
  if 0x004 ≤ x ∧ x < 0x008 then some 0xFF
  else if x = 0x014 then some 0x1F
  else if x = 0x018 then some 0xFF
  else if 0x100 ≤ x ∧ x < 0x400 then some (storedBits x)
  else none

/-- The key, the phase code and the slot of the confirmation check that a phase performs before the
termination sequence (R126, R129, R131, R139, R142..R145). -/
def checkOf (s : State) : SeqPhase → Option (Byte × ErrPhase × Nat)
  | .echo0 => some (s.k1s, .hsConf1, 0)
  | .conf1Echo => some (s.k1s, .hsConf2, 0)
  | .conf2Echo => some (s.par.k2, .hsConf3, 0)
  | .readCheck => some (s.par.k2, .slotAck, s.seq.slot)
  | .writeCheck .scanKey => some (s.par.k2, .scanKey, 0)
  | .writeCheck .mask => some (s.par.k2, .mask, 0)
  | .writeCheck .slot => some (s.par.k2, .slotAck, s.seq.slot)
  | _ => none

/-- The length, the phase code and the slot of the unchecked read that a phase performs: IDENT, RESP and
the data block of a read transaction (R128, R130, R139). -/
def readOf (s : State) : SeqPhase → Option (Nat × ErrPhase × Nat)
  | .ident => some (40, .hsIdent, 0)
  | .resp => some (s.params.raw.respLen, .hsResp, 0)
  | .readData => some (32, .slotData, s.seq.slot)
  | _ => none

/-- DEV's answer to an `RX(1)` as the block sees it: the byte, or none for TIMEOUT (R136). -/
def oneByte : DevAnswer → Option Byte
  | .absent => none
  | .present d => some (d.getD 0 0)

/-- DEV's answers that carry a handshake with first-layer key `k1` through (R132): `dI` is the
identity block and `dR` the marker response, both discarded. -/
def handshakeAnswers (p : Params) (k1 : Byte) (dI dR : List Byte) : List DevAnswer :=
  [.present [], .present [p.listenCode], .present [conf ^^^ k1], .present dI,
    .present [conf ^^^ k1]] ++
  (if p.respLen = 0 then [] else [.present dR]) ++ [.present [conf ^^^ p.k2]]

/-- The events of that handshake (R132). -/
def handshakeEvents (p : Params) (k1 : Byte) (dI dR : List Byte) : List Event :=
  [.openLink true] ++ p.progReq.map Event.tx ++
  [.rx 1 (some [p.listenCode]), .baud p.baudHigh, .rx 1 (some [conf ^^^ k1]), .tx p.verReq,
    .rx 40 (some (answerBytes dI 40)), .tx k1, .tx (conf ^^^ k1), .rx 1 (some [conf ^^^ k1]),
    .tx (p.marker ^^^ p.k2)] ++
  (if p.respLen = 0 then [] else [.rx p.respLen (some (answerBytes dR p.respLen))]) ++
  [.tx (conf ^^^ p.k2), .rx 1 (some [conf ^^^ p.k2])]

/-- How many steps that handshake takes: one per event (R181). -/
def handshakeSteps (p : Params) : Nat := if p.respLen = 0 then 19 else 20

/-- The four wire bytes of an address descriptor (R138). -/
def descEvents (p : Params) (c : Byte) (a : BitVec 16) (n : Nat) : List Event :=
  [.tx (c ^^^ p.k2), .tx (a.extractLsb' 8 8 ^^^ p.k2), .tx (a.extractLsb' 0 8 ^^^ p.k2),
    .tx (BitVec.ofNat 8 n ^^^ p.k2)]

/-- The events of a read transaction of slot number `n` that DEV answers with the bytes of `d` and the
right confirmation (R139, R140). -/
def readEvents (p : Params) (n : Nat) (d : List Byte) : List Event :=
  descEvents p p.cmdRead (slotAddr p n) 0x20 ++ [.rx 32 (some (answerBytes d 32))] ++
  (if p.readAckMode = .sendThenCheck then [.tx (conf ^^^ p.k2)] else []) ++
  [.rx 1 (some [conf ^^^ p.k2])]

/-- The events of a write transaction of the bytes `d` at device address `a` that DEV confirms
rightly (R142). -/
def writeEvents (p : Params) (a : BitVec 16) (d : List Byte) : List Event :=
  descEvents p p.cmdWrite a d.length ++ d.map (fun b => Event.tx (b ^^^ p.k2)) ++
  [.tx (BitVec.ofNat 8 (d.map BitVec.toNat).sum ^^^ p.k2), .rx 1 (some [conf ^^^ p.k2])]

/-- The events of the termination sequence that DEV confirms rightly (R147). -/
def terminationEvents (p : Params) : List Event :=
  [.tx (p.endCode ^^^ p.k2), .rx 1 (some [conf ^^^ p.k2]), .close]

/-- HOST leaves the step of a running session to SEQ: it does nothing, polls STATUS (R52) or waits. -/
def State.seqTurn (s : State) : Bool :=
  match s.hostQueue with
  | [] | .poll :: _ | .wait :: _ => true
  | .write _ _ _ :: _ | .read _ _ :: _ | .reset :: _ => false

/-- Only SEQ moves: no HOST act is pending, a session runs, and the sequencer is at the start of the
phase `p`. -/
def atPhase (s : State) (p : SeqPhase) : Prop :=
  s.hostQueue = [] ∧ s.status.busy = true ∧ s.seq.phase = p ∧ s.seq.sent = 0

end Sys2Proof.Machine
end

