-- ==== Sys2Proof/Certificates/Slice0/Obligations.lean ====
section
/-! DEFINITION. The statements about the block, one `def Obligations.<Name> : Prop` each. -/

open Sys2Proof Sys2Proof.Config Sys2Proof.Machine

/-! ## Command words (30_encoding.md) -/

/-- Decode and encode agree (R47, R48): every command decodes back from its word, so no bit of the
encoding is dropped, and a word that decodes is the one word of its command. -/
def Obligations.DecodeAndEncodeAgree : Prop :=
  (∀ i : Instr, decode (encode i) = .ok i) ∧
  ∀ (w : Word) (i : Instr), decode w = .ok i → encode i = w

/-- R49: which words are legal, and what the write of an illegal one does while BUSY = 0.  TBL and
IMG are read through the memory's byte read; the transport is the trace and the line state. -/
def Obligations.IllegalWordEndsInIllegalCommand : Prop :=
  (∀ w : Word, (∃ i, decode w = .ok i) ↔
    (w.toNat % 256 ∈ [0x01, 0x02, 0x03, 0x04, 0x05, 0x06, 0x07, 0x08, 0x09, 0x10, 0x11, 0x12, 0x13,
        0x20, 0x21] ∧
      w.toNat / 4096 = 0 ∧
      (w.toNat / 256 % 16 = 0 ∨ w.toNat % 256 ∈ [0x08, 0x10, 0x11]))) ∧
  (∀ (s : State) (rest : List HostAct) (w : Word),
    s.hostQueue = .write 4 0 w :: rest → s.status.busy = false → (∀ i, decode w ≠ .ok i) →
    ∃ t, step s = .next t ∧
      t.cmd = w ∧ t.status.busy = false ∧ t.status.done = true ∧ t.status.err = true ∧
      ecodeField t.status.ecode = 7 ∧ t.errInfo.toWord = 0x01000000 ∧
      t.res = s.res ∧ t.actMask = s.actMask ∧ (∀ a, t.mem.read a = s.mem.read a) ∧
      t.trace = s.trace ∧ t.status.link = s.status.link ∧ t.status.baudHi = s.status.baudHi)

/-- Command words written out in 95_test_vectors.md section 3.9 and sections 3.5, 4. -/
def Obligations.SpecWordsDecode : Prop :=
  decode 0x00000001 = .ok .fenc ∧ decode 0x00000003 = .ok .stepf ∧
  decode 0x00000009 = .ok .amask ∧ decode 0x00000008 = .ok (.csum 0) ∧
  decode 0x00000F08 = .ok (.csum 15) ∧ decode 0x00000210 = .ok (.renc 2) ∧
  decode 0x00000F11 = .ok (.rdec 15) ∧ decode 0x00000013 = .ok .idec ∧
  decode 0x00000020 = .ok .rdall ∧ decode 0x00000021 = .ok .wrall ∧
  decode 0x00000000 = .error .unmappedOp ∧ decode 0x00000101 = .error .slotNotTaken ∧
  decode 0x00001010 = .error .reservedBits ∧ decode 0x00000014 = .error .unmappedOp

/-! ## Steps -/

/-- A step whose HOST act is the write of a command word, while BUSY = 0, runs the decoded command
from the state that R50 starts it in. -/
def Obligations.StepRunsDecodedCommand : Prop :=
  ∀ (s : State) (rest : List HostAct) (w : Word) (i : Instr),
    s.hostQueue = .write 4 0 w :: rest → s.status.busy = false → decode w = .ok i →
    step s = exec i
      { s with
        hostQueue := rest
        cmd := w
        status := { s.status with done := false, err := false, ecode := none, termFail := false }
        errInfo := { exp := 0, act := 0, slot := 0, field := .none, phase := .none }
        seq := { s.seq with op := some (w.extractLsb' 0 8) } }

/-- While no command runs and HOST does nothing, nothing happens (R171, R174).  That the step then
answers the same state, HOST's wait being used up, is the model's form of performing no step (log
entry 13, DEDUCED; log entry 5, DESIGN CHOICE, for the wait). -/
def Obligations.IdleBlockPerformsNoStep : Prop :=
  ∀ s : State, s.status.busy = false →
    (s.hostQueue = [] → step s = .next s) ∧
    (∀ rest, s.hostQueue = .wait :: rest → step s = .next { s with hostQueue := rest })

/-- What HOST accesses are accepted: of 1, 2 or 4 bytes and naturally aligned (R34), inside the host
space (R28, 93_implementation_defined.md section 3); every other stops the model by name.  The order
width, space, alignment, and that the refusal comes while BUSY = 1 too, are the model's choice (log
entry 14, DESIGN CHOICE). -/
def Obligations.MisalignedAccessIsRefused : Prop :=
  ∀ (s : State) (rest : List HostAct) (n a : Nat) (v : Word) (act : HostAct),
    (act = .write n a v ∨ act = .read n a) → s.hostQueue = act :: rest →
    (¬(n = 1 ∨ n = 2 ∨ n = 4) → step s = .refused .accessWidth) ∧
    ((n = 1 ∨ n = 2 ∨ n = 4) → a + n > 0x400 → step s = .refused .outsideHostSpace) ∧
    ((n = 1 ∨ n = 2 ∨ n = 4) → a + n ≤ 0x400 → a % n ≠ 0 → step s = .refused .misalignedAccess) ∧
    ((n = 1 ∨ n = 2 ∨ n = 4) → a + n ≤ 0x400 → a % n = 0 → ∃ t, step s = .next t)

/-- R36: only a 4-byte write to CMD issues a command; a 1- or 2-byte write to CMD is ignored, and a
read of CMD only delivers its bytes. -/
def Obligations.CommandWriteNeedsFourBytes : Prop :=
  (∀ (s : State) (rest : List HostAct) (n a : Nat) (v : Word),
    s.hostQueue = .write n a v :: rest → (n = 1 ∨ n = 2) → a + n ≤ 4 → a % n = 0 →
    step s = .next { s with hostQueue := rest }) ∧
  (∀ (s : State) (rest : List HostAct) (v : Word),
    s.hostQueue = .write 4 0 v :: rest → s.status.busy = false →
    step s = issue v { s with hostQueue := rest }) ∧
  (∀ (s : State) (rest : List HostAct) (n a : Nat),
    s.hostQueue = .read n a :: rest → accessWellFormed n a = true → a < 4 →
    step s = .next { s with
      hostQueue := rest, hostData := BitVec.ofNat 32 (s.cmd.toNat / 256 ^ a % 256 ^ n) })

/-- R40, while BUSY = 1.  Every HOST write is dropped, a CMD write among them (R176, R177).  A read of
RES, ACTMASK, TBL or IMG delivers a free value of its width, a fresh draw, and a read of any other
register its current bytes; neither changes the block.  The free value is the model's form of the
unspecified value (log entry 3): nothing is said of it.  A POLL (R52) and a wait of HOST give the step
of SEQ that an idle HOST gives (the model's choice, log entry 5): the POLL stays pending. -/
def Obligations.BusyHostAccesses : Prop :=
  ∀ (s : State) (rest : List HostAct), s.status.busy = true →
    (∀ n a : Nat, accessWellFormed n a = true →
      (∀ v, s.hostQueue = .write n a v :: rest → step s = .next { s with hostQueue := rest }) ∧
      (s.hostQueue = .read n a :: rest →
        ((0x008 ≤ a ∧ a < 0x00C) ∨ (0x020 ≤ a ∧ a < 0x024) ∨ 0x100 ≤ a →
          step s = .next { s with
            hostQueue := rest
            hostData := BitVec.ofNat 32 ((busyRead s.draws).toNat % 256 ^ n)
            draws := s.draws + 1 }) ∧
        (¬((0x008 ≤ a ∧ a < 0x00C) ∨ (0x020 ≤ a ∧ a < 0x024) ∨ 0x100 ≤ a) →
          step s = .next { s with hostQueue := rest, hostData := s.hostValue n a }))) ∧
    (s.hostQueue = .poll :: rest →
      ∃ t, step { s with hostQueue := [] } = .next t ∧
        step s = .next { t with hostQueue := .poll :: rest }) ∧
    (s.hostQueue = .wait :: rest →
      ∃ t, step { s with hostQueue := [] } = .next t ∧ step s = .next { t with hostQueue := rest })

/-- While BUSY = 0 a read delivers its bytes little-endian, each byte that of the address map (R29,
R31), and changes nothing of the block (R37); a POLL ends and delivers the STATUS word (R52; its form
as one act is log entry 5, DESIGN CHOICE). -/
def Obligations.HostReadDeliversItsBytes : Prop :=
  ∀ (s : State) (rest : List HostAct), s.status.busy = false →
    (∀ n a : Nat, s.hostQueue = .read n a :: rest → accessWellFormed n a = true →
      ∃ v : Word, step s = .next { s with hostQueue := rest, hostData := v } ∧
        (∀ k, k < n → v.toNat / 256 ^ k % 256 = (s.hostByte (a + k)).toNat) ∧
        v.toNat < 256 ^ n) ∧
    (s.hostQueue = .poll :: rest →
      step s = .next { s with hostQueue := rest, hostData := s.status.toWord })

/-- What HOST reads at each address of the map (R29, R35): the nine registers, 0 in the reserved
space, TBL and IMG from 0x100 on. -/
def Obligations.HostMapReads : Prop :=
  ∀ s : State,
    s.hostValue 4 0x000 = s.cmd ∧ s.hostValue 4 0x004 = s.arg ∧ s.hostValue 4 0x008 = s.res ∧
    s.hostValue 4 0x00C = s.status.toWord ∧ s.hostValue 4 0x010 = s.errInfo.toWord ∧
    s.hostValue 4 0x014 = s.cfg.setWidth 32 ∧ s.hostValue 4 0x018 = s.key1.setWidth 32 ∧
    s.hostValue 4 0x01C = s.params.raw.k2.setWidth 32 ∧
    s.hostValue 4 0x020 = s.actMask.setWidth 32 ∧
    (∀ a, 0x024 ≤ a → a < 0x100 → s.hostByte a = 0) ∧
    (∀ a, 0x100 ≤ a → a < 0x400 → s.hostByte a = s.mem.read a) ∧
    (∀ i : SlotIx, s.hostByte (0x100 + 16 * i.val + 13) = 0 ∧
      s.hostByte (0x100 + 16 * i.val + 14) = 0 ∧ s.hostByte (0x100 + 16 * i.val + 15) = 0 ∧
      (s.hostByte (0x100 + 16 * i.val + 12)).toNat < 32)

/-- A HOST write that issues no command, while BUSY = 0, changes exactly the writable bits of the
bytes it covers (R31, R35, R38): every byte HOST can read elsewhere is as before, and nothing but
ARG, CFG, KEY1, TBL and IMG changes. -/
def Obligations.HostWriteChangesItsWritableBytes : Prop :=
  ∀ (s : State) (rest : List HostAct) (n a : Nat) (v : Word),
    s.hostQueue = .write n a v :: rest → accessWellFormed n a = true → s.status.busy = false →
    ¬(n = 4 ∧ a = 0) →
    ∃ t, step s = .next t ∧
      (∀ x, x < 0x400 → t.hostByte x =
        match writableBits x with
        | some m =>
          if a ≤ x ∧ x < a + n then BitVec.ofNat 8 (v.toNat / 256 ^ (x - a)) &&& m
          else s.hostByte x
        | none => s.hostByte x) ∧
      t = { s with
        hostQueue := rest, arg := t.arg, cfg := t.cfg, key1 := t.key1, mem := t.mem }

/-! ## Field-codec commands (40_field_codecs.md section 2) -/

/-- FENC (R88).  Variant A: RES spells the eight decimal digits of ARG; Variant B: byte 0 is 0xFF and
the three bytes above spell the six digits of the whole kilohertz. -/
def Obligations.FencResult : Prop :=
  ∀ s : State,
    (cfgFreqSel s.cfg = false →
      (10000000 ≤ s.arg.toNat ∧ s.arg.toNat ≤ 99999999 →
        exec .fenc s = .next (s.succeed (BitVec.ofNat 32 (spellDecimal s.arg.toNat 8)))) ∧
      (¬(10000000 ≤ s.arg.toNat ∧ s.arg.toNat ≤ 99999999) →
        exec .fenc s = .next (s.endWithError (fieldFailure .encode .encodingError)))) ∧
    (cfgFreqSel s.cfg = true →
      (s.arg.toNat ≤ 99999999 →
        exec .fenc s = .next
          (s.succeed (BitVec.ofNat 32 (0xFF + 256 * spellDecimal (s.arg.toNat / 100) 6)))) ∧
      (¬ s.arg.toNat ≤ 99999999 →
        exec .fenc s = .next (s.endWithError (fieldFailure .encode .encodingError))))

/-- FDEC (R89).  Variant A reads eight decimal digits or raises DecodeError; Variant B weighs the six
nibbles above byte 0 and never raises. -/
def Obligations.FdecResult : Prop :=
  ∀ s : State,
    (cfgFreqSel s.cfg = false →
      (nibblesDecimal s.arg.toNat 8 = true →
        exec .fdec s = .next (s.succeed (BitVec.ofNat 32 (readDecimal s.arg.toNat 8)))) ∧
      (nibblesDecimal s.arg.toNat 8 = false →
        exec .fdec s = .next (s.endWithError (fieldFailure .decode .decodeError)))) ∧
    (cfgFreqSel s.cfg = true →
      exec .fdec s = .next
        (s.succeed (BitVec.ofNat 32 (100 * readDecimal (s.arg.toNat / 256) 6))))

/-- STEPF (R72, R90): RES by the divisors of the five decimals, an error exactly when ARG is not a
multiple of 250; ARGs with the same five decimals give the same outcome. -/
def Obligations.StepfResult : Prop :=
  ∀ s : State,
    (s.arg.toNat % 250 ≠ 0 →
      exec .stepf s = .next (s.endWithError (fieldFailure .encode .encodingError))) ∧
    (s.arg.toNat % 250 = 0 →
      (s.arg.toNat % 100000 % 1250 = 0 → exec .stepf s = .next (s.succeed 2)) ∧
      (s.arg.toNat % 100000 % 500 = 0 ∧ s.arg.toNat % 100000 % 1250 ≠ 0 →
        exec .stepf s = .next (s.succeed 1)) ∧
      (s.arg.toNat % 100000 % 750 = 0 ∧ s.arg.toNat % 100000 % 500 ≠ 0 ∧
          s.arg.toNat % 100000 % 1250 ≠ 0 →
        exec .stepf s = .next (s.succeed 0)) ∧
      (s.arg.toNat % 100000 % 750 ≠ 0 ∧ s.arg.toNat % 100000 % 500 ≠ 0 ∧
          s.arg.toNat % 100000 % 1250 ≠ 0 →
        exec .stepf s = .next (s.succeed 3))) ∧
    ∀ f g : Nat, f % 100000 = g % 100000 → stepFlag f = stepFlag g

/-- TENC (R91, with R76 and R79). -/
def Obligations.TencResult : Prop :=
  ∀ s : State,
    (cfgToneSel s.cfg = false →
      (s.arg = 0 →
        exec .tenc s = .next (s.succeed (0#16 ++ s.params.raw.noToneA1 ++ s.params.raw.noToneA0))) ∧
      (∀ e ∈ s.params.raw.toneTableA, s.arg = e.tone.setWidth 32 →
        exec .tenc s = .next (s.succeed (0#16 ++ e.q ++ e.p))) ∧
      (s.arg ≠ 0 → (∀ e ∈ s.params.raw.toneTableA, s.arg ≠ e.tone.setWidth 32) →
        exec .tenc s = .next (s.endWithError (fieldFailure .encode .encodingError)))) ∧
    (cfgToneSel s.cfg = true →
      (s.arg.toNat ≤ 0xFFFF → exec .tenc s = .next (s.succeed s.arg)) ∧
      (0xFFFF < s.arg.toNat →
        exec .tenc s = .next (s.endWithError (fieldFailure .encode .encodingError))))

/-- TDEC (R92, with R77 and R80); ARG[31:16] is not read. -/
def Obligations.TdecResult : Prop :=
  ∀ s : State,
    (cfgToneSel s.cfg = false →
      (s.arg.extractLsb' 0 16 = s.params.raw.noToneA1 ++ s.params.raw.noToneA0 →
        exec .tdec s = .next (s.succeed 0)) ∧
      (∀ e ∈ s.params.raw.toneTableA, s.arg.extractLsb' 0 16 = e.q ++ e.p →
        exec .tdec s = .next (s.succeed (e.tone.setWidth 32))) ∧
      (s.arg.extractLsb' 0 16 ≠ s.params.raw.noToneA1 ++ s.params.raw.noToneA0 →
        (∀ e ∈ s.params.raw.toneTableA, s.arg.extractLsb' 0 16 ≠ e.q ++ e.p) →
        exec .tdec s = .next (s.endWithError (fieldFailure .decode .decodeError)))) ∧
    (cfgToneSel s.cfg = true →
      exec .tdec s = .next (s.succeed ((s.arg.extractLsb' 0 16).setWidth 32)))

/-- GENC (R93, R86): the same byte in both variants, for every ARG. -/
def Obligations.GencResult : Prop :=
  ∀ s : State,
    exec .genc s = .next (s.succeed
      (0xCC ||| ((s.arg &&& 1) <<< 5) ||| (((~~~s.arg >>> 2) &&& 1) <<< 4) |||
        ((s.arg >>> 1) &&& 1)))

/-- GDEC (R94, with R83 and R85): RES is power + 2 width + 4 scan; ARG[31:8] is not read. -/
def Obligations.GdecResult : Prop :=
  ∀ s : State,
    (cfgFlagSel s.cfg = false →
      (s.arg.toNat % 16 = 0xC ∨ s.arg.toNat % 16 = 0xD →
        exec .gdec s = .next (s.succeed (BitVec.ofNat 32
          ((if 0xE ≤ s.arg.toNat / 16 % 16 then 1 else 0) + 2 * (s.arg.toNat % 16 - 0xC) +
            4 * (1 - s.arg.toNat / 16 % 2))))) ∧
      (¬(s.arg.toNat % 16 = 0xC ∨ s.arg.toNat % 16 = 0xD) →
        exec .gdec s = .next (s.endWithError (fieldFailure .decode .decodeError)))) ∧
    (cfgFlagSel s.cfg = true →
      exec .gdec s = .next (s.succeed (BitVec.ofNat 32
        (s.arg.toNat / 32 % 2 + 2 * (s.arg.toNat % 2) + 4 * (1 - s.arg.toNat / 16 % 2)))))

/-- R86: for every (power, width, scan) the two encoders give the same byte, the eight bytes are the
canonical ones, and on these eight bytes the two decoders agree and invert the encoders. -/
def Obligations.FlagsEncodersAgreeAndInvert : Prop :=
  (∀ p w c : Bool, flagsEncA p w c = flagsEncB p w c ∧
    flagsEncA p w c ∈ ([0xCC, 0xCD, 0xDC, 0xDD, 0xEC, 0xED, 0xFC, 0xFD] : List Byte) ∧
    flagsDecA (flagsEncA p w c) = .ok (p, w, c) ∧ flagsDecB (flagsEncB p w c) = (p, w, c)) ∧
  (∀ b ∈ ([0xCC, 0xCD, 0xDC, 0xDD, 0xEC, 0xED, 0xFC, 0xFD] : List Byte),
    flagsDecA b = .ok (flagsDecB b) ∧
    flagsEncA (flagsDecB b).1 (flagsDecB b).2.1 (flagsDecB b).2.2 = b)

/-- CSUM (R95, R87): RES is the sum of the record's 32 bytes modulo 256. -/
def Obligations.CsumResult : Prop :=
  ∀ (s : State) (i : SlotIx),
    exec (.csum i) s = .next (s.succeed (BitVec.ofNat 32
      (((List.range 32).map fun k => (s.mem.read (0x200 + 32 * i.val + k)).toNat).sum % 256)))

/-! ## Record-codec commands (41_record_codec.md section 5) -/

/-- AMASK (R107, R110): bit s-1 of ACTMASK and of RES is 0 exactly when TBL[s] has RXV = 1 and
SCAN = 1; the bits above 15 are 0; nothing else changes. -/
def Obligations.AmaskResult : Prop :=
  ∀ s : State, ∃ m : BitVec 16,
    exec .amask s = .next ({ s with actMask := m }.succeed (m.setWidth 32)) ∧
    ∀ i : SlotIx, m.getLsbD i.val =
      !((s.mem.read (0x100 + 16 * i.val + 12)).getLsbD 0 &&
        (s.mem.read (0x100 + 16 * i.val + 12)).getLsbD 4)

/-- RENC of an entry with RXV = 0 (R100): the empty record, whatever the other fields hold, and no
error; every other byte of TBL and IMG is as before, and RES is the record's checksum. -/
def Obligations.RencEmptySlotWritesSentinel : Prop :=
  ∀ (s : State) (i : SlotIx),
    (s.mem.read (0x100 + 16 * i.val + 12)).getLsbD 0 = false →
    ∃ m : Memory,
      exec (.renc i) s = .next ({ s with mem := m }.succeed (BitVec.ofNat 32
        (((List.range 32).map fun k => (m.read (0x200 + 32 * i.val + k)).toNat).sum % 256))) ∧
      (∀ k, k < 32 → m.read (0x200 + 32 * i.val + k) = emptyByte s.params.raw s.cfg k) ∧
      (∀ a, a < 0x200 + 32 * i.val ∨ 0x200 + 32 * i.val + 32 ≤ a → m.read a = s.mem.read a)

/-- RENC of a slot in use whose fields encode (R53, R98, R99, R101, R111): every byte of the record,
every other byte as before, and RES the record's checksum. -/
def Obligations.RencUsedSlotWritesRecord : Prop :=
  ∀ (s : State) (i : SlotIx),
    (readEntry s.mem i).rxv = true →
    firstEncodeError s.params.raw s.cfg (readEntry s.mem i) = none →
    ∃ m : Memory,
      exec (.renc i) s = .next ({ s with mem := m }.succeed (BitVec.ofNat 32
        (((List.range 32).map fun k => (m.read (0x200 + 32 * i.val + k)).toNat).sum % 256))) ∧
      (∀ k, k < 32 → m.read (0x200 + 32 * i.val + k) =
        recordByte s.params.raw s.cfg (readEntry s.mem i) (i.val + 1) k) ∧
      (∀ a, a < 0x200 + 32 * i.val ∨ 0x200 + 32 * i.val + 32 ≤ a → m.read a = s.mem.read a)

/-- RENC of an entry with a field that does not encode (R98, R160, R165): EncodingError with the slot
and the first such field in the order RXF, RXSTEP, TXF, TXSTEP, RXT, TXT, and nothing written. -/
def Obligations.RencRaisesFirstFailingField : Prop :=
  ∀ (s : State) (i : SlotIx) (fld : RecField),
    firstEncodeError s.params.raw s.cfg (readEntry s.mem i) = some fld →
    exec (.renc i) s = .next (s.endWithError
      { kind := .encodingError,
        info := { exp := 0, act := 0, slot := BitVec.ofNat 5 (i.val + 1), field := fld,
                  phase := .encode } })

/-- RDEC of an empty record (R54, R104, R112): byte 0 or byte 5 is 0xFF; the entry's sixteen bytes
become 0, whatever the record's other bytes, RES is 0, and every other byte is as before. -/
def Obligations.RdecEmptyRecordClearsEntry : Prop :=
  ∀ (s : State) (i : SlotIx),
    (s.mem.read (0x200 + 32 * i.val) = 0xFF ∨ s.mem.read (0x200 + 32 * i.val + 5) = 0xFF) →
    ∃ m : Memory,
      exec (.rdec i) s = .next ({ s with mem := m }.succeed 0) ∧
      (∀ k, k < 16 → m.read (0x100 + 16 * i.val + k) = 0) ∧
      (∀ a, a < 0x100 + 16 * i.val ∨ 0x100 + 16 * i.val + 16 ≤ a → m.read a = s.mem.read a)

/-- RDEC of a non-empty record whose fields decode (R102, R103, R112): the entry holds the decoded
fields, the transmit ones 0 when byte 9 is 0xFF; RES is 1 and every other byte is as before. -/
def Obligations.RdecUsedRecordFillsEntry : Prop :=
  ∀ (s : State) (i : SlotIx) (r : List Byte), r = readRecord s.mem i →
    recordEmpty r = false → firstDecodeError s.params.raw s.cfg r = none →
    ∃ m : Memory,
      exec (.rdec i) s = .next ({ s with mem := m }.succeed 1) ∧
      (readEntry m i).rxv = true ∧
      (readEntry m i).txv = !decide (recByte r 9 = 0xFF) ∧
      freqDec s.cfg (recSlice r 2 4) = .ok (readEntry m i).rxf.toNat ∧
      toneDec s.params.raw s.cfg (recSlice r 12 2) = .ok (readEntry m i).rxt.toNat ∧
      flagsDec s.cfg (recByte r 17) =
        .ok ((readEntry m i).power, (readEntry m i).width, (readEntry m i).scan) ∧
      (recByte r 9 = 0xFF → (readEntry m i).txf = 0 ∧ (readEntry m i).txt = 0) ∧
      (recByte r 9 ≠ 0xFF →
        freqDec s.cfg (recSlice r 6 4) = .ok (readEntry m i).txf.toNat ∧
        toneDec s.params.raw s.cfg (recSlice r 14 2) = .ok (readEntry m i).txt.toNat) ∧
      (∀ a, a < 0x100 + 16 * i.val ∨ 0x100 + 16 * i.val + 16 ≤ a → m.read a = s.mem.read a)

/-- RDEC of a non-empty record with a field that does not decode (R102, R160, R165): DecodeError with
the slot and the first such field in the order RXF, TXF, RXT, TXT, FLAGS, and nothing written. -/
def Obligations.RdecRaisesFirstFailingField : Prop :=
  ∀ (s : State) (i : SlotIx) (fld : RecField),
    firstDecodeError s.params.raw s.cfg (readRecord s.mem i) = some fld →
    exec (.rdec i) s = .next (s.endWithError
      { kind := .decodeError,
        info := { exp := 0, act := 0, slot := BitVec.ofNat 5 (i.val + 1), field := fld,
                  phase := .decode } })

/-- R105: the decode of a non-empty record depends on the field bytes alone, not on byte 0 (so not on
whether it is the slot's number), a step-flag byte, a template byte or a reserved byte. -/
def Obligations.DecodeIgnoresSlotNumberAndReservedBytes : Prop :=
  ∀ (p : Params) (cfg : BitVec 5) (r r' : List Byte),
    r.length = 32 → r'.length = 32 → recByte r 0 ≠ 0xFF → recByte r' 0 ≠ 0xFF →
    (∀ k, decodeReads k = true → recByte r k = recByte r' k) →
    decodeRecord p cfg r = decodeRecord p cfg r'

/-- R106: RENC then RDEC restores the entry (its TXF and TXT reading 0 when TXV = 0), for every entry
in use that encodes, its frequencies multiples of 100 when CFG.FREQSEL = 1. -/
def Obligations.RencThenRdecRestoresEntry : Prop :=
  ∀ (s : State) (i : SlotIx) (e : TblEntry), e = readEntry s.mem i →
    e.rxv = true → firstEncodeError s.params.raw s.cfg e = none →
    (cfgFreqSel s.cfg = true → e.rxf.toNat % 100 = 0 ∧ (e.txv = true → e.txf.toNat % 100 = 0)) →
    ∃ t u, exec (.renc i) s = .next t ∧ exec (.rdec i) t = .next u ∧
      t.status.err = false ∧ u.status.err = false ∧ u.res = 1 ∧
      readEntry u.mem i =
        { e with txf := if e.txv then e.txf else 0, txt := if e.txv then e.txt else 0 }

/-- IENC of a table whose sixteen entries encode (R108, R113): every record is its entry's, TBL is as
before, and ACTMASK and RES are the active mask of the table (R107). -/
def Obligations.IencEncodesWholeTable : Prop :=
  ∀ s : State,
    (∀ i : SlotIx, firstEncodeError s.params.raw s.cfg (readEntry s.mem i) = none) →
    ∃ (m : Memory) (k : BitVec 16),
      exec .ienc s = .next ({ s with mem := m, actMask := k }.succeed (k.setWidth 32)) ∧
      (∀ i : SlotIx, encodeRecord s.params.raw s.cfg (readEntry s.mem i) (i.val + 1) =
        .ok (readRecord m i)) ∧
      (∀ a, a < 0x200 → m.read a = s.mem.read a) ∧
      (∀ i : SlotIx, k.getLsbD i.val = !((readEntry s.mem i).rxv && (readEntry s.mem i).scan))

/-- IDEC of an image whose sixteen records decode (R109, R114): every entry is its record's, IMG and
ACTMASK are as before, and RES counts the slots in use. -/
def Obligations.IdecDecodesWholeImage : Prop :=
  ∀ s : State,
    (∀ i : SlotIx, firstDecodeError s.params.raw s.cfg (readRecord s.mem i) = none) →
    ∃ m : Memory,
      exec .idec s = .next ({ s with mem := m }.succeed
        (BitVec.ofNat 32 (allSlots.countP fun i => (readEntry m i).rxv))) ∧
      (∀ i : SlotIx, decodeRecord s.params.raw s.cfg (readRecord s.mem i) =
        .ok (readEntry m i)) ∧
      (∀ a, 0x200 ≤ a → m.read a = s.mem.read a)

/-- IENC of a table with an entry that does not encode, and IDEC of an image with a record that does
not decode (R108, R109, R113, R114, R162, R165): the error of the lowest such slot with its first
such field, and nothing else changes: no byte of IMG or TBL, no bit of ACTMASK, not RES. -/
def Obligations.ImageCodecErrorWritesNothing : Prop :=
  ∀ (s : State) (i : SlotIx) (fld : RecField),
    ((∀ j : SlotIx, j < i → firstEncodeError s.params.raw s.cfg (readEntry s.mem j) = none) →
      firstEncodeError s.params.raw s.cfg (readEntry s.mem i) = some fld →
      exec .ienc s = .next (s.endWithError
        { kind := .encodingError,
          info := { exp := 0, act := 0, slot := BitVec.ofNat 5 (i.val + 1), field := fld,
                    phase := .encode } })) ∧
    ((∀ j : SlotIx, j < i →
        firstDecodeError s.params.raw s.cfg (readRecord s.mem j) = none) →
      firstDecodeError s.params.raw s.cfg (readRecord s.mem i) = some fld →
      exec .idec s = .next (s.endWithError
        { kind := .decodeError,
          info := { exp := 0, act := 0, slot := BitVec.ofNat 5 (i.val + 1), field := fld,
                    phase := .decode } }))

/-! ## Frames of the commands -/

/-- What a CODEC command leaves alone (R51, sections 2 and 5 of the codec files): the parameters, the
operand and configuration registers, KEY1, the session's key, latches, trace and position, SSTATE,
TERMFAIL and the line state, and everything outside the block.  It ends DONE.  That SEQ.OP, and on an
error SEQ.ERROR, are none then (R24) is log entry 9 (DEDUCED); that STAGE and the latched CFG and KEY1
stay is log entries 17 and 10 (DESIGN CHOICE). -/
def Obligations.CodecCommandFrame : Prop :=
  ∀ (i : Instr) (s t : State), isCodec i = true → exec i s = .next t →
    t = { s with
      res := t.res
      actMask := t.actMask
      mem := t.mem
      errInfo := if t.status.err then t.errInfo else s.errInfo
      status := { s.status with
        busy := s.status.busy && !t.status.err, done := true, err := t.status.err,
        ecode := t.status.ecode }
      seq := { s.seq with op := none, error := if t.status.err then none else s.seq.error } }

/-- What each CODEC command stores to (R88..R95, R110..R114): FENC, FDEC, STEPF, TENC, TDEC, GENC,
GDEC, CSUM and AMASK to no byte of TBL or IMG, RENC to its record only, RDEC to its entry only, IENC
to IMG only, IDEC to TBL only; and only AMASK and IENC write ACTMASK.  An error leaves TBL, IMG, ACTMASK
and RES as they were (R162). -/
def Obligations.CodecCommandStores : Prop :=
  ∀ s t : State,
    (∀ i, i ∈ [Instr.fenc, .fdec, .stepf, .tenc, .tdec, .genc, .gdec, .amask] →
      exec i s = .next t → ∀ a, t.mem.read a = s.mem.read a) ∧
    (∀ j, exec (.csum j) s = .next t → ∀ a, t.mem.read a = s.mem.read a) ∧
    (∀ j, exec (.renc j) s = .next t → ∀ a, a < imgAddr j ∨ imgAddr j + 32 ≤ a →
      t.mem.read a = s.mem.read a) ∧
    (∀ j, exec (.rdec j) s = .next t → ∀ a, a < tblAddr j ∨ tblAddr j + 16 ≤ a →
      t.mem.read a = s.mem.read a) ∧
    (exec .ienc s = .next t → ∀ a, a < 0x200 → t.mem.read a = s.mem.read a) ∧
    (exec .idec s = .next t → ∀ a, 0x200 ≤ a → t.mem.read a = s.mem.read a) ∧
    (∀ i, isCodec i = true → i ≠ .amask → i ≠ .ienc → exec i s = .next t →
      t.actMask = s.actMask) ∧
    (∀ i, isCodec i = true → exec i s = .next t → t.status.err = true →
      t.res = s.res ∧ t.actMask = s.actMask ∧ ∀ a, t.mem.read a = s.mem.read a)

/-! ## Session commands (43_transaction_controller.md section 4) -/

/-- RDALL's start (R16, R50, R115, R153): CFG and KEY1 are latched, the session is Idle and BUSY, K1S
is 0x00 in the legacy variant and KEY1 in the revised one, the sequencer stands at OPEN, no event
has happened, and no byte of TBL or IMG changes.  That the trace is emptied here and STAGE stays is
the model's choice (log entries 8 and 17, DESIGN CHOICE). -/
def Obligations.RdallStartsSession : Prop :=
  ∀ s : State, exec .rdall s = .next
    { s with
      latchedCfg := s.cfg
      latchedKey1 := s.key1
      k1s := if cfgPvar s.cfg then s.key1 else 0x00
      status := { s.status with busy := true, sstate := .idle }
      seq := { s.seq with phase := .openLink, sent := 0, slot := 0, doneSlots := 0, error := none }
      trace := [] }

/-- WRALL's start when the sixteen entries encode (R108, R154): the image and ACTMASK are those of
IENC, TBL is as before, and the session starts as RDALL's.  That the latch and the whole encode are
in the step of the CMD write is the model's (log entry 7, DEDUCED), and so are the emptied trace and
the kept STAGE (log entries 8 and 17, DESIGN CHOICE). -/
def Obligations.WrallEncodesThenStartsSession : Prop :=
  ∀ s : State,
    (∀ i : SlotIx, firstEncodeError s.params.raw s.cfg (readEntry s.mem i) = none) →
    ∃ (m : Memory) (k : BitVec 16),
      exec .wrall s = .next
        { s with
          mem := m
          actMask := k
          latchedCfg := s.cfg
          latchedKey1 := s.key1
          k1s := if cfgPvar s.cfg then s.key1 else 0x00
          status := { s.status with busy := true, sstate := .idle }
          seq := { s.seq with
            phase := .openLink, sent := 0, slot := 0, doneSlots := 0, error := none }
          trace := [] } ∧
      (∀ i : SlotIx, encodeRecord s.params.raw s.cfg (readEntry s.mem i) (i.val + 1) =
        .ok (readRecord m i)) ∧
      (∀ a, a < 0x200 → m.read a = s.mem.read a) ∧
      (∀ i : SlotIx, k.getLsbD i.val = !((readEntry s.mem i).rxv && (readEntry s.mem i).scan))

/-- WRALL with an entry that does not encode (R154, D30, D31): the session ends before OPEN with
EncodingError at the lowest such slot, SSTATE Failed, RES 0 and no transport event; no byte of TBL
or IMG and no bit of ACTMASK changes.  The model's: that it ends in the step of the CMD write (log
entry 7, DEDUCED), that the trace is emptied and STAGE kept (log entries 8 and 17, DESIGN CHOICE), and
that SEQ.OP and SEQ.ERROR are none then (R24; log entry 9, DEDUCED). -/
def Obligations.WrallEncodeErrorEndsBeforeOpen : Prop :=
  ∀ (s : State) (i : SlotIx) (fld : RecField),
    (∀ j : SlotIx, j < i → firstEncodeError s.params.raw s.cfg (readEntry s.mem j) = none) →
    firstEncodeError s.params.raw s.cfg (readEntry s.mem i) = some fld →
    ∃ t, exec .wrall s = .next t ∧ t.trace = [] ∧ t.res = 0 ∧ t.k1s = 0 ∧
      t.status = { s.status with
        busy := false, done := true, err := true, ecode := some .encodingError,
        sstate := .failed, link := false, baudHi := false } ∧
      t.errInfo = { exp := 0, act := 0, slot := BitVec.ofNat 5 (i.val + 1), field := fld,
                    phase := .encode } ∧
      t.seq = { op := none, phase := .idle, sent := 0, slot := 0, doneSlots := 0, error := none } ∧
      t.actMask = s.actMask ∧ (∀ a, t.mem.read a = s.mem.read a) ∧
      t.arg = s.arg ∧ t.cfg = s.cfg ∧ t.key1 = s.key1 ∧ t.cmd = s.cmd ∧ t.stage = s.stage ∧
      t.params = s.params

/-! ## The sequencer (42_cipher_handshake.md, 43_transaction_controller.md) -/

/-- R132: the handshake in one piece.  With DEV answering every check rightly, the session's events
are those of R132 in order, one per step, with K1S and K2 where R117 puts them, whatever IDENT and
RESP hold, and the sequencer then stands at the first transaction of the command, KeyExchanged.
That SSTATE and the position are so in the step of the last check is log entry 6 (DEDUCED); that STAGE
stays is log entry 17 (DESIGN CHOICE). -/
def Obligations.HandshakeRuns : Prop :=
  ∀ (s : State) (dI dR : List Byte) (q : List DevAnswer),
    atPhase s .openLink → s.devQueue = handshakeAnswers s.params.raw s.k1s dI dR ++ q →
    steps (handshakeSteps s.params.raw) s = .next
      { s with
        devQueue := q
        trace := s.trace ++ handshakeEvents s.params.raw s.k1s dI dR
        status := { s.status with sstate := .keyExchanged, link := true, baudHi := true }
        seq :=
          if s.seq.op = some 0x20 then { s.seq with phase := .readDesc, slot := 1 }
          else { s.seq with phase := .writeDesc .scanKey } }

/-- An OPEN that answers UNAVAILABLE (R121, R160): the session ends at once, Failed, with
TransportUnavailable, the one event OPEN, no termination sequence, and RES its count of slots.  That
SEQ.OP and SEQ.ERROR are none then (R24) is log entry 9 (DEDUCED); that STAGE and the latched CFG and
KEY1 stay is log entries 17 and 10 (DESIGN CHOICE). -/
def Obligations.OpenUnavailableEndsSession : Prop :=
  ∀ (s : State) (q : List DevAnswer),
    atPhase s .openLink → s.devQueue = .absent :: q →
    step s = .next
      { s with
        devQueue := q
        trace := s.trace ++ [.openLink false]
        k1s := 0
        res := BitVec.ofNat 32 s.seq.doneSlots
        status := { s.status with
          busy := false, done := true, err := true, ecode := some .transportUnavailable,
          sstate := .failed, link := false, baudHi := false }
        errInfo := { exp := 0, act := 0, slot := 0, field := .none, phase := .openLink }
        seq := { s.seq with op := none, phase := .idle, sent := 0, slot := 0, error := none } }

/-- R124: a session whose LISTEN byte is wrong, or does not come, performs no BAUD and no transaction:
its remaining events are that RX, the END byte, the termination check and CLOSE, it stays at BAUD_LOW,
and it ends with HandshakeRejected or Timeout. -/
def Obligations.ListenFailureOnlyTerminates : Prop :=
  ∀ (s : State) (a c : DevAnswer) (q : List DevAnswer),
    atPhase s .listen → s.devQueue = a :: c :: q →
    oneByte a ≠ some s.params.raw.listenCode →
    ∃ t, steps 4 s = .next t ∧
      t.trace = s.trace ++ [.rx 1 ((oneByte a).map fun b => [b]),
        .tx (s.params.raw.endCode ^^^ s.params.raw.k2), .rx 1 ((oneByte c).map fun b => [b]),
        .close] ∧
      t.status.busy = false ∧ t.status.err = true ∧ t.status.sstate = .failed ∧
      t.status.link = false ∧
      t.status.ecode =
        (if oneByte a = none then some .timeout else some .handshakeRejected) ∧
      t.errInfo = { exp := s.params.raw.listenCode, act := (oneByte a).getD 0, slot := 0,
                    field := .none, phase := .hsListen } ∧
      (∀ x, t.mem.read x = s.mem.read x) ∧
      (s.status.baudHi = false → ∀ (k : Nat) (u : State), k ≤ 4 → steps k s = .next u →
        u.status.baudHi = false)

/-- R139: the read transaction of slot n = 1..16.  The descriptor CMD_READ, SLOT_ADDR(n), 0x20, the
data block, the acknowledgement that READ_ACK_MODE calls for and the check, each byte under K2;
then IMG[n] holds the decrypted block, every other byte of TBL and IMG is as before, the slot is
counted, and the loop is at the next slot or, after slot 16, at the termination sequence, where
SEQ.SLOT is 0 (R24).  That SSTATE, SEQ.SLOT and the position are so in the step of the check is log
entry 6 (DEDUCED); that STAGE still holds the block then is log entry 17 (DESIGN CHOICE). -/
def Obligations.ReadTransactionStoresRecord : Prop :=
  ∀ (s : State) (d : List Byte) (q : List DevAnswer),
    atPhase s .readDesc → 1 ≤ s.seq.slot → s.seq.slot ≤ 16 →
    (s.status.sstate = .active ∨ s.status.sstate = .keyExchanged) →
    s.devQueue = .present d :: .present [conf ^^^ s.params.raw.k2] :: q →
    ∃ m : Memory,
      steps (if s.params.raw.readAckMode = .sendThenCheck then 7 else 6) s = .next
        { s with
          devQueue := q
          mem := m
          stage := (answerBytes d 32).map (· ^^^ s.params.raw.k2)
          status := { s.status with
            sstate := if s.seq.slot < 16 then .active else .terminated }
          trace := s.trace ++
            descEvents s.params.raw s.params.raw.cmdRead
              (s.params.raw.baseAddr + BitVec.ofNat 16 (0x20 * (s.seq.slot - 1))) 0x20 ++
            [.rx 32 (some (answerBytes d 32))] ++
            (if s.params.raw.readAckMode = .sendThenCheck then [.tx (conf ^^^ s.params.raw.k2)]
              else []) ++
            [.rx 1 (some [conf ^^^ s.params.raw.k2])]
          seq :=
            if s.seq.slot < 16 then
              { s.seq with slot := s.seq.slot + 1, doneSlots := s.seq.doneSlots + 1 }
            else
              { s.seq with
                phase := .termSend, slot := 0, doneSlots := s.seq.doneSlots + 1 } } ∧
      (∀ k, k < 32 → m.read (0x200 + 32 * (s.seq.slot - 1) + k) =
        d.getD k 0 ^^^ s.params.raw.k2) ∧
      (∀ a, a < 0x200 + 32 * (s.seq.slot - 1) ∨ 0x200 + 32 * (s.seq.slot - 1) + 32 ≤ a →
        m.read a = s.mem.read a)

/-- R142, R143, R144, R145: a write transaction.  The descriptor CMD_WRITE, the device address and
the length, the data, the checksum of the plaintext data and the check, each byte under K2; then
the session goes on as R154 says: the bitmask write in a legacy session only, then the slots in
ascending order, then the termination sequence, where SEQ.SLOT is 0 (R24).  TBL and IMG are not
touched.  That SSTATE, SEQ.SLOT and the position are so in the step of the check is log entry 6
(DEDUCED); that STAGE stays is log entry 17 (DESIGN CHOICE). -/
def Obligations.WriteTransactionRuns : Prop :=
  ∀ (s : State) (g : Target) (a : BitVec 16) (d : List Byte) (q : List DevAnswer),
    a = (match g with
      | .scanKey => s.params.raw.scanKeyAddr
      | .mask => s.params.raw.maskAddr
      | .slot => s.params.raw.baseAddr + BitVec.ofNat 16 (0x20 * (s.seq.slot - 1))) →
    d = (match g with
      | .scanKey => s.params.raw.scanKeyData
      | .mask => [s.actMask.extractLsb' 0 8, s.actMask.extractLsb' 8 8]
      | .slot => (List.range 32).map fun k => s.mem.read (0x200 + 32 * (s.seq.slot - 1) + k)) →
    atPhase s (.writeDesc g) → (g = .slot → 1 ≤ s.seq.slot ∧ s.seq.slot ≤ 16) →
    (s.status.sstate = .active ∨ s.status.sstate = .keyExchanged) →
    s.devQueue = .present [conf ^^^ s.params.raw.k2] :: q →
    steps (d.length + 6) s = .next
      { s with
        devQueue := q
        status := { s.status with
          sstate := if g = .slot ∧ ¬ s.seq.slot < 16 then .terminated else .active }
        trace := s.trace ++ descEvents s.params.raw s.params.raw.cmdWrite a d.length ++
          d.map (fun b => Event.tx (b ^^^ s.params.raw.k2)) ++
          [.tx (BitVec.ofNat 8 (d.map BitVec.toNat).sum ^^^ s.params.raw.k2),
            .rx 1 (some [conf ^^^ s.params.raw.k2])]
        seq :=
          match g with
          | .scanKey =>
            if cfgPvar s.latchedCfg then { s.seq with slot := 1, phase := .writeDesc .slot }
            else { s.seq with phase := .writeDesc .mask }
          | .mask => { s.seq with slot := 1, phase := .writeDesc .slot }
          | .slot =>
            if s.seq.slot < 16 then
              { s.seq with slot := s.seq.slot + 1, doneSlots := s.seq.doneSlots + 1 }
            else
              { s.seq with phase := .termSend, slot := 0, doneSlots := s.seq.doneSlots + 1 } }

/-- The reads of a session that fail are not retried: a confirmation check by a wrong byte or a timeout
(R118, R119), and IDENT, RESP or a data block by a timeout (R128, R130, R139).  The session is Failed
with the read's phase, slot and bytes in its error, the termination sequence follows with SEQ.SLOT 0
(R24), and nothing else changes but the event and DEV's used answer.  That SSTATE, SEQ.ERROR and
SEQ.SLOT are so in the step of the failing RX is log entry 6 (DEDUCED); that STAGE stays is log entry
17 (DESIGN CHOICE). -/
def Obligations.FailedReadFailsSession : Prop :=
  (∀ (s : State) (key : Byte) (ph : ErrPhase) (slot : Nat) (a : DevAnswer) (q : List DevAnswer),
    s.hostQueue = [] → s.status.busy = true → checkOf s s.seq.phase = some (key, ph, slot) →
    s.devQueue = a :: q → (oneByte a).map (· ^^^ key) ≠ some 0x06 →
    step s = .next
      { s with
        devQueue := q
        trace := s.trace ++ [.rx 1 ((oneByte a).map fun b => [b])]
        status := { s.status with sstate := .failed }
        seq := { s.seq with
          phase := .termSend, sent := 0, slot := 0,
          error := some
            { kind := if oneByte a = none then .timeout else .confirmationMismatch,
              info := { exp := 0x06, act := ((oneByte a).map (· ^^^ key)).getD 0,
                        slot := BitVec.ofNat 5 slot, field := .none, phase := ph } } } }) ∧
  (∀ (s : State) (n : Nat) (ph : ErrPhase) (slot : Nat) (q : List DevAnswer),
    s.hostQueue = [] → s.status.busy = true → readOf s s.seq.phase = some (n, ph, slot) →
    s.devQueue = .absent :: q →
    step s = .next
      { s with
        devQueue := q
        trace := s.trace ++ [.rx n none]
        status := { s.status with sstate := .failed }
        seq := { s.seq with
          phase := .termSend, sent := 0, slot := 0,
          error := some
            { kind := .timeout,
              info := { exp := 0x00, act := 0x00, slot := BitVec.ofNat 5 slot, field := .none,
                        phase := ph } } } })

/-- R148, R164: the failure path.  END, one RX, CLOSE; then the first error is reported whatever the
termination check gives, TERMFAIL telling a failed one; RES counts the slots done and K1S is discarded
(R150).  That SEQ.OP and SEQ.ERROR are none then (R24) is log entry 9 (DEDUCED); that STAGE and the
latched CFG and KEY1 stay is log entries 17 and 10 (DESIGN CHOICE). -/
def Obligations.FailurePathReportsFirstError : Prop :=
  ∀ (s : State) (f : Failure) (a : DevAnswer) (q : List DevAnswer),
    atPhase s .termSend → s.seq.error = some f → s.devQueue = a :: q →
    steps 3 s = .next
      { s with
        devQueue := q
        trace := s.trace ++ [.tx (s.params.raw.endCode ^^^ s.params.raw.k2),
          .rx 1 ((oneByte a).map fun b => [b]), .close]
        k1s := 0
        res := BitVec.ofNat 32 s.seq.doneSlots
        errInfo := f.info
        status :=
          { busy := false, done := true, err := true, ecode := some f.kind, sstate := .failed,
            link := false, baudHi := false,
            termFail := s.status.termFail ||
              !decide ((oneByte a).map (· ^^^ s.params.raw.k2) = some 0x06) }
        seq := { s.seq with op := none, phase := .idle, sent := 0, slot := 0, error := none } }

/-- R149: the success path.  END, one RX, CLOSE; then success with SSTATE as it stood, or the
termination check's own error with SSTATE Failed; RES counts the slots done (R150).  That SEQ.OP and
SEQ.ERROR are none then (R24) is log entry 9 (DEDUCED), that success sets ECODE to 0 (R13) is log
entry 12 (DEDUCED). -/
def Obligations.SuccessPathChecksTermination : Prop :=
  ∀ (s : State) (a : DevAnswer) (q : List DevAnswer),
    atPhase s .termSend → s.seq.error = none → s.devQueue = a :: q →
    ∃ t, steps 3 s = .next t ∧
      t.trace = s.trace ++ [.tx (s.params.raw.endCode ^^^ s.params.raw.k2),
        .rx 1 ((oneByte a).map fun b => [b]), .close] ∧
      t.res = BitVec.ofNat 32 s.seq.doneSlots ∧ t.k1s = 0 ∧ t.devQueue = q ∧ t.mem = s.mem ∧
      t.actMask = s.actMask ∧
      t.seq = { s.seq with op := none, phase := .idle, sent := 0, slot := 0, error := none } ∧
      ((oneByte a).map (· ^^^ s.params.raw.k2) = some 0x06 →
        t.errInfo = s.errInfo ∧
        t.status = { s.status with
          busy := false, done := true, err := false, ecode := none, link := false,
          baudHi := false }) ∧
      ((oneByte a).map (· ^^^ s.params.raw.k2) ≠ some 0x06 →
        t.errInfo = { exp := 0x06, act := ((oneByte a).map (· ^^^ s.params.raw.k2)).getD 0,
                      slot := 0, field := .none, phase := .term } ∧
        t.status = { s.status with
          busy := false, done := true, err := true, sstate := .failed, link := false,
          baudHi := false,
          ecode := if oneByte a = none then some .timeout else some .confirmationMismatch })

/-- R155: a write session whose 9th slot check fails sends no byte of the slots after it: from that
check on its events are the RX, the END byte, the termination check and CLOSE, and it ends with
ConfirmationMismatch, SLOT 9, PHASE SLOT_ACK and RES = 8. -/
def Obligations.NinthSlotCheckFailureEndsWriteSession : Prop :=
  ∀ (s : State) (d : List Byte) (c : DevAnswer) (q : List DevAnswer),
    atPhase s (.writeCheck .slot) → s.seq.slot = 9 → s.seq.doneSlots = 8 →
    s.devQueue = .present d :: c :: q → d.getD 0 0 ^^^ s.params.raw.k2 ≠ 0x06 →
    ∃ t, steps 4 s = .next t ∧
      t.trace = s.trace ++ [.rx 1 (some [d.getD 0 0]),
        .tx (s.params.raw.endCode ^^^ s.params.raw.k2), .rx 1 ((oneByte c).map fun b => [b]),
        .close] ∧
      t.status.busy = false ∧ t.status.ecode = some .confirmationMismatch ∧
      t.status.sstate = .failed ∧ t.errInfo.slot = 9 ∧ t.errInfo.phase = .slotAck ∧ t.res = 8

/-- Every step of SEQ in a running session, HOST idle, polling or waiting, performs exactly one
transport event, recorded last in the trace (R3, R135), whatever DEV answers. -/
def Obligations.OneTransportEventPerStep : Prop :=
  ∀ s : State, s.consistent = true → s.status.busy = true → s.seqTurn = true →
    ∃ t ev, step s = .next t ∧ t.trace = s.trace ++ [ev]

/-- R57: a byte the block sends is the next byte of the frame of the step it is at, each frame as R56
gives it; a phase that R56 gives no outbound frame sends no byte. -/
def Obligations.SentByteIsTheFramesNextByte : Prop :=
  ∀ (s t : State) (b : Byte), s.consistent = true → s.status.busy = true → s.seqTurn = true →
    step s = .next t → t.trace = s.trace ++ [.tx b] →
    ∃ f : List Byte, f[s.seq.sent]? = some b ∧
      match s.seq.phase with
      | .progReq => f = s.params.raw.progReq
      | .verReq => f = [s.params.raw.verReq]
      | .keySend => f = [s.k1s]
      | .conf1 => f = [0x06 ^^^ s.k1s]
      | .mark => f = [s.params.raw.marker ^^^ s.params.raw.k2]
      | .conf2 => f = [0x06 ^^^ s.params.raw.k2]
      | .readDesc =>
        ∃ a : BitVec 16, a = s.params.raw.baseAddr + BitVec.ofNat 16 (0x20 * (s.seq.slot - 1)) ∧
          f = [s.params.raw.cmdRead ^^^ s.params.raw.k2, a.extractLsb' 8 8 ^^^ s.params.raw.k2,
            a.extractLsb' 0 8 ^^^ s.params.raw.k2, 0x20 ^^^ s.params.raw.k2]
      | .readAck => f = [0x06 ^^^ s.params.raw.k2]
      | .writeDesc g =>
        ∃ (a : BitVec 16) (n : Byte),
          f = [s.params.raw.cmdWrite ^^^ s.params.raw.k2, a.extractLsb' 8 8 ^^^ s.params.raw.k2,
            a.extractLsb' 0 8 ^^^ s.params.raw.k2, n ^^^ s.params.raw.k2] ∧
          match g with
          | .scanKey =>
            a = s.params.raw.scanKeyAddr ∧ n = BitVec.ofNat 8 s.params.raw.scanKeyData.length
          | .mask => a = s.params.raw.maskAddr ∧ n = 2
          | .slot =>
            a = s.params.raw.baseAddr + BitVec.ofNat 16 (0x20 * (s.seq.slot - 1)) ∧ n = 0x20
      | .writeData .scanKey => f = s.params.raw.scanKeyData.map (· ^^^ s.params.raw.k2)
      | .writeData .mask =>
        f = [s.actMask.extractLsb' 0 8 ^^^ s.params.raw.k2,
          s.actMask.extractLsb' 8 8 ^^^ s.params.raw.k2]
      | .writeData .slot =>
        f = (List.range 32).map fun k =>
          s.mem.read (0x200 + 32 * (s.seq.slot - 1) + k) ^^^ s.params.raw.k2
      | .writeSum .scanKey =>
        f = [BitVec.ofNat 8 (s.params.raw.scanKeyData.map BitVec.toNat).sum ^^^ s.params.raw.k2]
      | .writeSum .mask =>
        f = [(s.actMask.extractLsb' 0 8 + s.actMask.extractLsb' 8 8) ^^^ s.params.raw.k2]
      | .writeSum .slot =>
        f = [BitVec.ofNat 8 (((List.range 32).map fun k =>
          (s.mem.read (0x200 + 32 * (s.seq.slot - 1) + k)).toNat).sum) ^^^ s.params.raw.k2]
      | .termSend => f = [s.params.raw.endCode ^^^ s.params.raw.k2]
      | _ => False

/-- R179, R123, R125: the baud rate is raised only in SSTATE Listening, and SSTATE becomes Listening
only by an RX that delivered LISTEN_CODE; HOST idle, polling or waiting. -/
def Obligations.BaudRaisedOnlyAfterListen : Prop :=
  ∀ s t : State, s.consistent = true → s.seqTurn = true → step s = .next t →
    (∀ r, t.trace = s.trace ++ [.baud r] →
      s.status.sstate = .listening ∧ r = s.params.raw.baudHigh ∧ t.status.baudHi = true) ∧
    (t.status.sstate = .listening → s.status.sstate ≠ .listening →
      t.trace = s.trace ++ [.rx 1 (some [s.params.raw.listenCode])])

/-- R180, R150, R151, R152: a session ends after finitely many steps, whatever DEV answers, HOST idle,
polling or waiting: BUSY = 0, DONE = 1, the transport closed and the key discarded.  When the link was
open, CLOSE has been performed exactly once.  It rests on every RX being answered, R180's assumption,
which the model's answers meet (log entry 16, DESIGN CHOICE). -/
def Obligations.EverySessionEnds : Prop :=
  ∀ s : State, s.consistent = true → s.status.busy = true →
    (∀ a ∈ s.hostQueue, a = .poll ∨ a = .wait) → Event.close ∉ s.trace →
    ∃ k t, steps k s = .next t ∧ t.status.busy = false ∧ t.status.done = true ∧
      t.status.link = false ∧ t.status.baudHi = false ∧ t.k1s = 0 ∧
      (s.status.link = true → t.trace.count Event.close = 1)

/-- R153: RDALL against a device that answers every check rightly reads the sixteen records in
ascending order: IMG holds the decrypted blocks, RES is 16, SSTATE is Terminated, no error, TBL and
ACTMASK are as before, and the events are the handshake's, the sixteen read transactions' and the
termination sequence's.  That the trace holds these alone is the model's choice (log entry 8, DESIGN
CHOICE: emptied at the start). -/
def Obligations.RdallReadsAllSixteenRecords : Prop :=
  ∀ (s t : State) (d : SlotIx → List Byte) (dI dR : List Byte) (q : List DevAnswer),
    exec .rdall s = .next t → s.hostQueue = [] → s.seq.op = some 0x20 →
    s.devQueue = handshakeAnswers s.params.raw t.k1s dI dR ++
      (allSlots.map fun i =>
        [DevAnswer.present (d i), .present [conf ^^^ s.params.raw.k2]]).flatten ++
      [.present [conf ^^^ s.params.raw.k2]] ++ q →
    ∃ k u, steps k t = .next u ∧ u.status.busy = false ∧ u.status.done = true ∧
      u.status.err = false ∧ u.status.sstate = .terminated ∧ u.status.link = false ∧
      u.res = 16 ∧ u.devQueue = q ∧ u.actMask = s.actMask ∧
      u.trace = handshakeEvents s.params.raw t.k1s dI dR ++
        (allSlots.map fun i => readEvents s.params.raw (i.val + 1) (d i)).flatten ++
        terminationEvents s.params.raw ∧
      (∀ (i : SlotIx) (k : Nat), k < 32 →
        u.mem.read (0x200 + 32 * i.val + k) = (d i).getD k 0 ^^^ s.params.raw.k2) ∧
      (∀ a, a < 0x200 → u.mem.read a = s.mem.read a)

/-- R154: WRALL, once its table has encoded, against a device that answers every check rightly: the
handshake, the scan-toggle write, the bitmask write in a legacy session only, the sixteen encoded
records in ascending order, the termination sequence; RES is 16, SSTATE is Terminated, no error, and
TBL, IMG and ACTMASK are as the encode left them.  The model's: the encode is in the step of the CMD
write (log entry 7, DEDUCED) and the trace is emptied there (log entry 8, DESIGN CHOICE). -/
def Obligations.WrallWritesAllSixteenRecords : Prop :=
  ∀ (s t : State) (dI dR : List Byte) (q : List DevAnswer),
    exec .wrall s = .next t → t.status.busy = true → s.hostQueue = [] → s.seq.op = some 0x21 →
    s.devQueue = handshakeAnswers s.params.raw t.k1s dI dR ++
      List.replicate (if cfgPvar s.cfg then 18 else 19)
        (DevAnswer.present [conf ^^^ s.params.raw.k2]) ++ q →
    ∃ k u, steps k t = .next u ∧ u.status.busy = false ∧ u.status.done = true ∧
      u.status.err = false ∧ u.status.sstate = .terminated ∧ u.status.link = false ∧
      u.res = 16 ∧ u.devQueue = q ∧ u.mem = t.mem ∧ u.actMask = t.actMask ∧
      u.trace = handshakeEvents s.params.raw t.k1s dI dR ++
        writeEvents s.params.raw s.params.raw.scanKeyAddr s.params.raw.scanKeyData ++
        (if cfgPvar s.cfg then []
          else writeEvents s.params.raw s.params.raw.maskAddr
            [t.actMask.extractLsb' 0 8, t.actMask.extractLsb' 8 8]) ++
        (allSlots.map fun i =>
          writeEvents s.params.raw (slotAddr s.params.raw (i.val + 1))
            (readRecord t.mem i)).flatten ++
        terminationEvents s.params.raw

/-- R30: the device addresses of the sixteen slots are BASE_ADDR + 0x20 (s - 1) without wrap, so
distinct and ascending. -/
def Obligations.SlotAddressesAscendWithoutWrap : Prop :=
  ∀ (p : BlockParams) (n : Nat), 1 ≤ n → n ≤ 16 →
    (slotAddr p.raw n).toNat = p.raw.baseAddr.toNat + 0x20 * (n - 1) ∧
    (n < 16 → (slotAddr p.raw n).toNat < (slotAddr p.raw (n + 1)).toNat)

/-! ## Error capture, reset and the invariant -/

/-- R161: what `end_with_error` writes, and that it writes nothing else but the sequencer's note of
the command and of the error under report, which are none then (R24; log entry 9, DEDUCED).  STATUS
then reads the error's code (R158). -/
def Obligations.EndWithErrorCaptures : Prop :=
  ∀ (s : State) (f : Failure),
    s.endWithError f = { s with
      status := { s.status with busy := false, done := true, err := true, ecode := some f.kind }
      errInfo := f.info
      seq := { s.seq with op := none, error := none } } ∧
    (s.endWithError f).status.toWord.extractLsb' 4 4 =
      match f.kind with
      | .handshakeRejected => 1
      | .confirmationMismatch => 2
      | .timeout => 3
      | .encodingError => 4
      | .transportUnavailable => 5
      | .decodeError => 6
      | .illegalCommand => 7

/-- The STATUS and ERRINFO words (R13, R14): every field at its bits, STATUS[31:13] and ERRINFO[31:28]
zero, the codes of ECODE (R158), SSTATE (R13), FIELD (R14) and PHASE (R159) one by one. -/
def Obligations.StatusAndErrInfoWordFields : Prop :=
  (∀ st : Status,
    st.toWord.getLsbD 0 = st.busy ∧ st.toWord.getLsbD 1 = st.done ∧
    st.toWord.getLsbD 2 = st.err ∧ st.toWord.getLsbD 3 = st.termFail ∧
    st.toWord.extractLsb' 4 4 =
      (match st.ecode with
        | none => 0
        | some .handshakeRejected => 1
        | some .confirmationMismatch => 2
        | some .timeout => 3
        | some .encodingError => 4
        | some .transportUnavailable => 5
        | some .decodeError => 6
        | some .illegalCommand => 7) ∧
    st.toWord.extractLsb' 8 3 =
      (match st.sstate with
        | .idle => 0
        | .listening => 1
        | .keyExchanged => 2
        | .active => 3
        | .terminated => 4
        | .failed => 5) ∧
    st.toWord.getLsbD 11 = st.link ∧ st.toWord.getLsbD 12 = st.baudHi ∧
    st.toWord.extractLsb' 13 19 = 0) ∧
  (∀ e : ErrInfo,
    e.toWord.extractLsb' 0 8 = e.exp ∧ e.toWord.extractLsb' 8 8 = e.act ∧
    e.toWord.extractLsb' 16 5 = e.slot ∧
    e.toWord.extractLsb' 21 3 =
      (match e.field with
        | .none => 0
        | .rxf => 1
        | .rxstep => 2
        | .txf => 3
        | .txstep => 4
        | .rxt => 5
        | .txt => 6
        | .flags => 7) ∧
    e.toWord.extractLsb' 24 4 =
      (match e.phase with
        | .none => 0
        | .cmd => 1
        | .encode => 2
        | .decode => 3
        | .openLink => 4
        | .hsListen => 5
        | .hsConf1 => 6
        | .hsIdent => 7
        | .hsConf2 => 8
        | .hsResp => 9
        | .hsConf3 => 10
        | .scanKey => 11
        | .mask => 12
        | .slotData => 13
        | .slotAck => 14
        | .term => 15) ∧
    e.toWord.extractLsb' 28 4 = 0)

/-- R172: the reset value of every piece of state that the spec gives one.  TBL, IMG and STAGE, which
it leaves unspecified, are not stated, but that the reserved bits of TBL read 0. -/
def Obligations.ResetValues : Prop :=
  State.reset.cmd = 0 ∧ State.reset.arg = 0 ∧ State.reset.res = 0 ∧
  State.reset.status.toWord = 0 ∧ State.reset.errInfo.toWord = 0 ∧ State.reset.cfg = 0 ∧
  State.reset.key1 = 0 ∧ State.reset.hostValue 4 0x020 = 0x0000FFFF ∧
  State.reset.hostValue 4 0x01C = State.reset.params.raw.k2.setWidth 32 ∧ State.reset.k1s = 0 ∧
  State.reset.seq.op = none ∧ State.reset.seq.phase = .idle ∧ State.reset.seq.slot = 0 ∧
  State.reset.seq.doneSlots = 0 ∧ State.reset.seq.error = none ∧
  State.reset.status.link = false ∧ State.reset.status.baudHi = false ∧
  ∀ i : SlotIx, (State.reset.mem.read (tblAddr i + 12)).toNat < 32 ∧
    State.reset.mem.read (tblAddr i + 13) = 0 ∧ State.reset.mem.read (tblAddr i + 14) = 0 ∧
    State.reset.mem.read (tblAddr i + 15) = 0

/-- R173: the reset input, at any time, a running session among them: no event is performed, the link
is released, and every register takes its reset value. -/
def Obligations.ResetInputAbortsSession : Prop :=
  ∀ (s : State) (rest : List HostAct), s.hostQueue = .reset :: rest →
    ∃ t, step s = .next t ∧ t.trace = s.trace ∧ t.status.link = false ∧
      t.status.baudHi = false ∧ t.cmd = 0 ∧ t.arg = 0 ∧ t.res = 0 ∧ t.status.toWord = 0 ∧
      t.errInfo.toWord = 0 ∧ t.cfg = 0 ∧ t.key1 = 0 ∧ t.actMask = 0xFFFF ∧ t.k1s = 0 ∧
      t.seq = { op := none, phase := .idle, sent := 0, slot := 0, doneSlots := 0, error := none } ∧
      t.params = s.params ∧ t.hostQueue = rest

/-- The machine after reset is consistent (log entry 1's contents of TBL, IMG and STAGE among it). -/
def Obligations.ResetIsConsistent : Prop := State.reset.consistent = true

/-- Every step keeps the consistency of registers, sequencer position, line state and buffers that
`State.consistent` spells out: canonical memory (R22), STATUS and ERRINFO in agreement (R13, R14),
the transport closed and the key discarded between sessions (R150, R151), and in each phase of a
session the state, rate, slot and count that the rules give it (R121..R149). -/
def Obligations.StepKeepsConsistent : Prop :=
  ∀ s t : State, s.consistent = true → step s = .next t → t.consistent = true

/-- SEQ's steps never change what HOST configured: CMD, ARG, CFG, KEY1, the parameters, the latched
CFG and KEY1, ERRINFO while the session goes on, and TBL (R16, R41, R43, R153), HOST idle, polling or
waiting.  That the latched copies stay in the session's last step too is log entry 10 (DESIGN
CHOICE). -/
def Obligations.SessionStepFrame : Prop :=
  ∀ s t : State, s.consistent = true → s.status.busy = true → s.seqTurn = true →
    step s = .next t →
    t.params = s.params ∧ t.cmd = s.cmd ∧ t.arg = s.arg ∧ t.cfg = s.cfg ∧ t.key1 = s.key1 ∧
    t.latchedCfg = s.latchedCfg ∧ t.latchedKey1 = s.latchedKey1 ∧ t.actMask = s.actMask ∧
    t.hostData = s.hostData ∧
    (t.status.busy = true → t.res = s.res ∧ t.errInfo = s.errInfo ∧ t.k1s = s.k1s) ∧
    (∀ a, t.mem.read a ≠ s.mem.read a → s.seq.phase = .readCheck ∧
      imgAddrOf s.seq.slot ≤ a ∧ a < imgAddrOf s.seq.slot + 32)
end

