-- ==== Sys2Proof/Laws/Memory.lean ====
section
/-! SUPPORT. The laws of the memory operations: what a read gives after a write, and that every write
keeps the canonical form. -/

namespace Sys2Proof.Machine

namespace Memory

@[simp] theorem lookup_nil (a : Nat) : Memory.lookup [] a = unlistedByte := rfl

theorem lookup_cons (x : Nat) (b : Byte) (m : Memory) (a : Nat) :
    Memory.lookup ((x, b) :: m) a = if x = a then b else Memory.lookup m a := rfl

/-- An address that no cell lists reads as unlisted. -/
theorem lookup_of_not_mem {m : Memory} {a : Nat} (h : ∀ c ∈ m, c.1 ≠ a) :
    m.lookup a = unlistedByte := by
  induction m with
  | nil => rfl
  | cons c m ih =>
    obtain ⟨x, b⟩ := c
    rw [lookup_cons, if_neg (h (x, b) (by simp))]
    exact ih fun c hc => h c (by simp [hc])

theorem lookup_append_left {m n : Memory} {a : Nat} (h : ∀ c ∈ n, c.1 ≠ a) :
    (m ++ n).lookup a = m.lookup a := by
  induction m with
  | nil => simpa using lookup_of_not_mem h
  | cons c m ih =>
    obtain ⟨x, b⟩ := c
    simp only [List.cons_append, lookup_cons, ih]

theorem lookup_append_right {m n : Memory} {a : Nat} (h : ∀ c ∈ m, c.1 ≠ a) :
    (m ++ n).lookup a = n.lookup a := by
  induction m with
  | nil => rfl
  | cons c m ih =>
    obtain ⟨x, b⟩ := c
    rw [List.cons_append, lookup_cons, if_neg (h (x, b) (by simp))]
    exact ih fun c hc => h c (by simp [hc])

/-- Dropping cells of other addresses does not change what an address reads as. -/
theorem lookup_filter {m : Memory} {a : Nat} {f : Nat → Bool} (h : f a = true) :
    Memory.lookup (m.filter fun c => f c.1) a = m.lookup a := by
  induction m with
  | nil => rfl
  | cons c m ih =>
    obtain ⟨x, b⟩ := c
    rw [List.filter_cons]
    by_cases hx : x = a
    · subst hx
      simp [h, lookup_cons]
    · split <;> simp [lookup_cons, hx, ih]

/-- The cells of a block lie in the block. -/
theorem cells_mem {bs : List Byte} : ∀ {a : Nat} {c : Host.Cell}, c ∈ Memory.cells a bs →
    a ≤ c.1 ∧ c.1 < a + bs.length ∧ c.2 ≠ unlistedByte ∧ c.2 &&& storedBits c.1 = c.2 := by
  induction bs with
  | nil => intro a c h; simp [Memory.cells] at h
  | cons b bs ih =>
    intro a c h
    simp only [Memory.cells] at h
    split at h
    · obtain ⟨h1, h2, h3⟩ := ih h
      exact ⟨by omega, by simp only [List.length_cons]; omega, h3⟩
    · rename_i hb
      rcases List.mem_cons.mp h with rfl | h
      · refine ⟨le_refl _, by simp, hb, ?_⟩
        simp [BitVec.and_assoc]
      · obtain ⟨h1, h2, h3⟩ := ih h
        exact ⟨by omega, by simp only [List.length_cons]; omega, h3⟩

theorem cells_rising (bs : List Byte) :
    ∀ a : Nat, (Memory.cells a bs).Pairwise fun c d => c.1 < d.1 := by
  induction bs with
  | nil => intro a; simp [Memory.cells]
  | cons b bs ih =>
    intro a
    simp only [Memory.cells]
    split
    · exact ih _
    · refine List.pairwise_cons.mpr ⟨fun d hd => ?_, ih _⟩
      have := (cells_mem hd).1
      simpa using (by omega : a < d.1)

/-- A block's cells read as the block's stored bits. -/
theorem lookup_cells (bs : List Byte) : ∀ a x : Nat, a ≤ x → x < a + bs.length →
    (Memory.cells a bs).lookup x = bs.getD (x - a) 0 &&& storedBits x := by
  induction bs with
  | nil => intro a x h1 h2; simp at h2; omega
  | cons b bs ih =>
    intro a x h1 h2
    simp only [List.length_cons] at h2
    by_cases hx : x = a
    · subst hx
      have hnot : ∀ c ∈ Memory.cells (x + 1) bs, c.1 ≠ x := fun c hc => by
        have := (cells_mem hc).1; omega
      simp only [Memory.cells, Nat.sub_self, List.getD_cons_zero]
      split
      · rename_i hb; rw [lookup_of_not_mem hnot, hb]
      · simp [lookup_cons]
    · have hi := ih (a + 1) x (by omega) (by omega)
      have hsub : x - a = (x - (a + 1)) + 1 := by omega
      rw [hsub, List.getD_cons_succ, ← hi]
      simp only [Memory.cells]
      split
      · rfl
      · rw [lookup_cons, if_neg (Ne.symm hx)]

/-- THE LAW of memory: a read after a block write gives the block's byte, its reserved bits 0, inside
the block, and what it gave before outside it. -/
theorem read_writeBytes (m : Memory) (a : Nat) (bs : List Byte) (x : Nat) :
    (m.writeBytes a bs).read x =
      if a ≤ x ∧ x < a + bs.length then bs.getD (x - a) 0 &&& storedBits x else m.read x := by
  have hlo : ∀ c ∈ m.filter (fun c => decide (c.1 < a)), c.1 < a := fun c hc => by
    simpa using (List.mem_filter.mp hc).2
  have hhi : ∀ c ∈ m.filter (fun c => decide (a + bs.length ≤ c.1)), a + bs.length ≤ c.1 :=
    fun c hc => by simpa using (List.mem_filter.mp hc).2
  have hmid : ∀ c ∈ Memory.cells a bs, a ≤ c.1 ∧ c.1 < a + bs.length := fun c hc =>
    ⟨(cells_mem hc).1, (cells_mem hc).2.1⟩
  unfold Memory.read Memory.writeBytes
  split
  · rename_i h
    rw [lookup_append_left (fun c hc => by have := hhi c hc; omega),
      lookup_append_right (fun c hc => by have := hlo c hc; omega), lookup_cells bs a x h.1 h.2]
    simp [BitVec.and_assoc]
  · rename_i h
    by_cases hx : x < a
    · rw [lookup_append_left (fun c hc => by have := hhi c hc; omega),
        lookup_append_left (fun c hc => by have := hmid c hc; omega),
        lookup_filter (f := fun y => decide (y < a)) (by simpa using hx)]
    · have hx' : a + bs.length ≤ x := by omega
      rw [lookup_append_right (fun c hc => by
          rcases List.mem_append.mp hc with hc | hc
          · have := hlo c hc; omega
          · have := hmid c hc; omega),
        lookup_filter (f := fun y => decide (a + bs.length ≤ y)) (by simpa using hx')]

/-- A write leaves every address outside the block as it was. -/
theorem read_writeBytes_outside (m : Memory) (a : Nat) (bs : List Byte) (x : Nat)
    (h : x < a ∨ a + bs.length ≤ x) : (m.writeBytes a bs).read x = m.read x := by
  rw [read_writeBytes, if_neg (by omega)]

theorem wf_iff (m : Memory) :
    m.wf = true ↔ m.Pairwise (fun c d => c.1 < d.1) ∧
      ∀ c ∈ m, c.2 ≠ unlistedByte ∧ c.2 &&& storedBits c.1 = c.2 := by
  simp [Memory.wf, Memory.rising]

/-- Every write keeps the canonical form. -/
theorem writeBytes_wf (m : Memory) (a : Nat) (bs : List Byte) (h : m.wf = true) :
    (m.writeBytes a bs).wf = true := by
  rw [wf_iff] at h ⊢
  obtain ⟨hr, hs⟩ := h
  have hlo : ∀ c ∈ m.filter (fun c => decide (c.1 < a)), c.1 < a := fun c hc => by
    simpa using (List.mem_filter.mp hc).2
  have hhi : ∀ c ∈ m.filter (fun c => decide (a + bs.length ≤ c.1)), a + bs.length ≤ c.1 :=
    fun c hc => by simpa using (List.mem_filter.mp hc).2
  have hmid : ∀ c ∈ Memory.cells a bs, a ≤ c.1 ∧ c.1 < a + bs.length := fun c hc =>
    ⟨(cells_mem hc).1, (cells_mem hc).2.1⟩
  refine ⟨?_, fun c hc => ?_⟩
  · unfold Memory.writeBytes
    refine List.pairwise_append.mpr ⟨List.pairwise_append.mpr
      ⟨hr.filter _, cells_rising bs a, fun c hc d hd => ?_⟩, hr.filter _, fun c hc d hd => ?_⟩
    · have := hlo c hc; have := hmid d hd; omega
    · have := hhi d hd
      rcases List.mem_append.mp hc with hc | hc
      · have := hlo c hc; omega
      · have := hmid c hc; omega
  · unfold Memory.writeBytes at hc
    rcases List.mem_append.mp hc with hc | hc
    · rcases List.mem_append.mp hc with hc | hc
      · exact hs c (List.mem_filter.mp hc).1
      · exact (cells_mem hc).2.2
    · exact hs c (List.mem_filter.mp hc).1

theorem nil_wf : Memory.wf [] = true := by decide

/-- In canonical form, equal reads are equal memories. -/
theorem wf_ext : ∀ {m n : Memory}, m.wf = true → n.wf = true → (∀ a, m.read a = n.read a) →
    m = n := by
  have key : ∀ {m : Memory}, m.wf = true → ∀ a, m.lookup a = m.read a := by
    intro m h a
    rw [wf_iff] at h
    by_cases hm : ∃ c ∈ m, c.1 = a
    · unfold Memory.read
      have : ∀ m : Memory, (∀ c ∈ m, c.2 ≠ unlistedByte ∧ c.2 &&& storedBits c.1 = c.2) →
          m.lookup a &&& storedBits a = m.lookup a := by
        intro m hs
        induction m with
        | nil => simp [unlistedByte]
        | cons c m ih =>
          obtain ⟨x, b⟩ := c
          rw [lookup_cons]
          split
          · rename_i hx; subst hx; exact (hs (x, b) (by simp)).2
          · exact ih fun c hc => hs c (by simp [hc])
      exact (this m h.2).symm
    · unfold Memory.read
      rw [lookup_of_not_mem (fun c hc hca => hm ⟨c, hc, hca⟩)]
      simp [unlistedByte]
  intro m
  induction m with
  | nil =>
    intro n _ hn he
    cases n with
    | nil => rfl
    | cons c n =>
      obtain ⟨x, b⟩ := c
      exfalso
      have h1 := he x
      rw [← key nil_wf, ← key hn, lookup_cons, if_pos rfl] at h1
      exact (((wf_iff _).mp hn).2 (x, b) (by simp)).1 h1.symm
  | cons c m ih =>
    obtain ⟨x, b⟩ := c
    intro n hm hn he
    have hm' := (wf_iff _).mp hm
    cases n with
    | nil =>
      exfalso
      have h1 := he x
      rw [← key hm, ← key nil_wf, lookup_cons, if_pos rfl] at h1
      exact (hm'.2 (x, b) (by simp)).1 h1
    | cons d n =>
      obtain ⟨y, e⟩ := d
      have hn' := (wf_iff _).mp hn
      have hmr := List.pairwise_cons.mp hm'.1
      have hnr := List.pairwise_cons.mp hn'.1
      have hxy : x = y := by
        by_contra hne
        rcases Nat.lt_or_gt_of_ne hne with hlt | hgt
        · have h1 := he x
          rw [← key hm, ← key hn, lookup_cons, if_pos rfl, lookup_cons,
            if_neg (by omega), lookup_of_not_mem] at h1
          · exact (hm'.2 (x, b) (by simp)).1 h1
          · intro c hc hcx; have := hnr.1 c hc; simp only at this; omega
        · have h1 := he y
          rw [← key hm, ← key hn, lookup_cons, if_neg (by omega), lookup_of_not_mem,
            lookup_cons, if_pos rfl] at h1
          · exact (hn'.2 (y, e) (by simp)).1 h1.symm
          · intro c hc hcx; have := hmr.1 c hc; simp only at this; omega
      subst hxy
      have hbe : b = e := by
        have h1 := he x
        rwa [← key hm, ← key hn, lookup_cons, if_pos rfl, lookup_cons, if_pos rfl] at h1
      subst hbe
      have hmw : Memory.wf m = true := (wf_iff m).mpr ⟨hmr.2, fun c hc => hm'.2 c (by simp [hc])⟩
      have hnw : Memory.wf n = true := (wf_iff n).mpr ⟨hnr.2, fun c hc => hn'.2 c (by simp [hc])⟩
      congr 1
      refine ih hmw hnw fun a => ?_
      rw [← key hmw, ← key hnw]
      by_cases ha : a = x
      · subst ha
        rw [lookup_of_not_mem, lookup_of_not_mem]
        · intro c hc hca; have := hnr.1 c hc; simp only at this; omega
        · intro c hc hca; have := hmr.1 c hc; simp only at this; omega
      · have h1 := he a
        rwa [← key hm, ← key hn, lookup_cons, if_neg (Ne.symm ha), lookup_cons,
          if_neg (Ne.symm ha)] at h1

/-! ## Reads of several bytes -/

@[simp] theorem readBytes_length (m : Memory) (n : Nat) :
    ∀ a : Nat, (m.readBytes a n).length = n := by
  induction n with
  | zero => intro a; rfl
  | succ n ih => intro a; simp [Memory.readBytes, ih]

theorem readBytes_getD (m : Memory) (n : Nat) :
    ∀ a k : Nat, k < n → (m.readBytes a n).getD k 0 = m.read (a + k) := by
  induction n with
  | zero => intro a k h; omega
  | succ n ih =>
    intro a k h
    cases k with
    | zero => simp [Memory.readBytes]
    | succ k =>
      rw [Memory.readBytes, List.getD_cons_succ, ih (a + 1) k (by omega)]
      congr 1; omega

theorem readBytes_congr {m m' : Memory} (n : Nat) :
    ∀ a : Nat, (∀ k, k < n → m.read (a + k) = m'.read (a + k)) →
      m.readBytes a n = m'.readBytes a n := by
  induction n with
  | zero => intro a _; rfl
  | succ n ih =>
    intro a h
    simp only [Memory.readBytes]
    congr 1
    · simpa using h 0 (by omega)
    · refine ih (a + 1) fun k hk => ?_
      have := h (k + 1) (by omega)
      rwa [show a + 1 + k = a + (k + 1) from by omega]

/-- A block of bytes that are all storage reads back as written. -/
theorem readBytes_writeBytes_same (m : Memory) (a : Nat) (bs : List Byte)
    (h : ∀ k, k < bs.length → bs.getD k 0 &&& storedBits (a + k) = bs.getD k 0) :
    (m.writeBytes a bs).readBytes a bs.length = bs := by
  refine List.ext_getElem (by simp) fun k h1 h2 => ?_
  have h3 := readBytes_getD (m.writeBytes a bs) bs.length a k h2
  rw [read_writeBytes, if_pos ⟨by omega, by omega⟩, show a + k - a = k from by omega, h k h2,
    List.getD_eq_getElem _ _ h1, List.getD_eq_getElem _ _ h2] at h3
  exact h3

/-- A block read that a write does not touch. -/
theorem readBytes_writeBytes_outside (m : Memory) (a : Nat) (bs : List Byte) (x n : Nat)
    (h : x + n ≤ a ∨ a + bs.length ≤ x) :
    (m.writeBytes a bs).readBytes x n = m.readBytes x n :=
  readBytes_congr n x fun k hk => read_writeBytes_outside m a bs (x + k) (by omega)

end Memory

/-! ## The storage of the two buffers -/

theorem storedBits_img {a : Nat} (h1 : 0x200 ≤ a) (h2 : a < 0x400) : storedBits a = 0xFF := by
  unfold storedBits
  rw [if_neg (by omega), if_neg (by omega), if_pos h2]

theorem storedBits_outside {a : Nat} (h : a < 0x100 ∨ 0x400 ≤ a) : storedBits a = 0 := by
  unfold storedBits
  rcases h with h | h
  · rw [if_pos h]
  · rw [if_neg (by omega), if_neg (by omega), if_neg (by omega)]

/-- Nothing outside TBL and IMG is storage. -/
theorem Memory.read_outside (m : Memory) {a : Nat} (h : a < 0x100 ∨ 0x400 ≤ a) : m.read a = 0 := by
  simp [Memory.read, storedBits_outside h]

/-! ## Byte order -/

@[simp] theorem leBytes_length (n : Nat) : ∀ v : Nat, (leBytes n v).length = n := by
  induction n with
  | zero => intro v; rfl
  | succ n ih => intro v; simp [leBytes, ih]

theorem leNat_lt (bs : List Byte) : leNat bs < 256 ^ bs.length := by
  induction bs with
  | nil => simp [leNat]
  | cons b bs ih =>
    have := b.isLt
    simp only [leNat, List.length_cons, Nat.pow_succ]
    omega

/-- Little-endian bytes read back as the number they were made from. -/
theorem leNat_leBytes (n : Nat) : ∀ v : Nat, leNat (leBytes n v) = v % 256 ^ n := by
  induction n with
  | zero => intro v; simp [leBytes, leNat, Nat.mod_one]
  | succ n ih =>
    intro v
    simp only [leBytes, leNat, ih, BitVec.toNat_ofNat]
    rw [show 256 ^ (n + 1) = 256 * 256 ^ n from Nat.pow_succ', Nat.mod_mul]

theorem leBytes_leNat (bs : List Byte) : leBytes bs.length (leNat bs) = bs := by
  induction bs with
  | nil => rfl
  | cons b bs ih =>
    have hb := b.isLt
    simp only [List.length_cons, leBytes, leNat]
    have h1 : (b.toNat + 256 * leNat bs) / 256 = leNat bs := by omega
    have h2 : BitVec.ofNat 8 (b.toNat + 256 * leNat bs) = b := by
      apply BitVec.eq_of_toNat_eq; rw [BitVec.toNat_ofNat]; omega
    rw [h1, h2, ih]

end Sys2Proof.Machine
end

