-- ==== Sys2Proof/Laws/State.lean ====
section
/-! SUPPORT. One lemma per field per named update of the state, each true by rfl. -/

namespace Sys2Proof.Machine

open Sys2Proof.Config

/-! ## succeed -/

@[simp] theorem succeed_params (s : State) (v : Word) :
    (s.succeed v).params = s.params := rfl
@[simp] theorem succeed_cmd (s : State) (v : Word) :
    (s.succeed v).cmd = s.cmd := rfl
@[simp] theorem succeed_arg (s : State) (v : Word) :
    (s.succeed v).arg = s.arg := rfl
@[simp] theorem succeed_res (s : State) (v : Word) :
    (s.succeed v).res = v := rfl
@[simp] theorem succeed_status (s : State) (v : Word) :
    (s.succeed v).status = s.status.succeeded := rfl
@[simp] theorem succeed_errInfo (s : State) (v : Word) :
    (s.succeed v).errInfo = s.errInfo := rfl
@[simp] theorem succeed_cfg (s : State) (v : Word) :
    (s.succeed v).cfg = s.cfg := rfl
@[simp] theorem succeed_key1 (s : State) (v : Word) :
    (s.succeed v).key1 = s.key1 := rfl
@[simp] theorem succeed_actMask (s : State) (v : Word) :
    (s.succeed v).actMask = s.actMask := rfl
@[simp] theorem succeed_mem (s : State) (v : Word) :
    (s.succeed v).mem = s.mem := rfl
@[simp] theorem succeed_k1s (s : State) (v : Word) :
    (s.succeed v).k1s = s.k1s := rfl
@[simp] theorem succeed_seq (s : State) (v : Word) :
    (s.succeed v).seq = { s.seq with op := none } := rfl
@[simp] theorem succeed_stage (s : State) (v : Word) :
    (s.succeed v).stage = s.stage := rfl
@[simp] theorem succeed_latchedCfg (s : State) (v : Word) :
    (s.succeed v).latchedCfg = s.latchedCfg := rfl
@[simp] theorem succeed_latchedKey1 (s : State) (v : Word) :
    (s.succeed v).latchedKey1 = s.latchedKey1 := rfl
@[simp] theorem succeed_hostQueue (s : State) (v : Word) :
    (s.succeed v).hostQueue = s.hostQueue := rfl
@[simp] theorem succeed_devQueue (s : State) (v : Word) :
    (s.succeed v).devQueue = s.devQueue := rfl
@[simp] theorem succeed_hostData (s : State) (v : Word) :
    (s.succeed v).hostData = s.hostData := rfl
@[simp] theorem succeed_draws (s : State) (v : Word) :
    (s.succeed v).draws = s.draws := rfl
@[simp] theorem succeed_trace (s : State) (v : Word) :
    (s.succeed v).trace = s.trace := rfl

/-! ## endWithError -/

@[simp] theorem endWithError_params (s : State) (f : Failure) :
    (s.endWithError f).params = s.params := rfl
@[simp] theorem endWithError_cmd (s : State) (f : Failure) :
    (s.endWithError f).cmd = s.cmd := rfl
@[simp] theorem endWithError_arg (s : State) (f : Failure) :
    (s.endWithError f).arg = s.arg := rfl
@[simp] theorem endWithError_res (s : State) (f : Failure) :
    (s.endWithError f).res = s.res := rfl
@[simp] theorem endWithError_status (s : State) (f : Failure) :
    (s.endWithError f).status = s.status.errored f.kind := rfl
@[simp] theorem endWithError_errInfo (s : State) (f : Failure) :
    (s.endWithError f).errInfo = f.info := rfl
@[simp] theorem endWithError_cfg (s : State) (f : Failure) :
    (s.endWithError f).cfg = s.cfg := rfl
@[simp] theorem endWithError_key1 (s : State) (f : Failure) :
    (s.endWithError f).key1 = s.key1 := rfl
@[simp] theorem endWithError_actMask (s : State) (f : Failure) :
    (s.endWithError f).actMask = s.actMask := rfl
@[simp] theorem endWithError_mem (s : State) (f : Failure) :
    (s.endWithError f).mem = s.mem := rfl
@[simp] theorem endWithError_k1s (s : State) (f : Failure) :
    (s.endWithError f).k1s = s.k1s := rfl
@[simp] theorem endWithError_seq (s : State) (f : Failure) :
    (s.endWithError f).seq = { s.seq with op := none, error := none } := rfl
@[simp] theorem endWithError_stage (s : State) (f : Failure) :
    (s.endWithError f).stage = s.stage := rfl
@[simp] theorem endWithError_latchedCfg (s : State) (f : Failure) :
    (s.endWithError f).latchedCfg = s.latchedCfg := rfl
@[simp] theorem endWithError_latchedKey1 (s : State) (f : Failure) :
    (s.endWithError f).latchedKey1 = s.latchedKey1 := rfl
@[simp] theorem endWithError_hostQueue (s : State) (f : Failure) :
    (s.endWithError f).hostQueue = s.hostQueue := rfl
@[simp] theorem endWithError_devQueue (s : State) (f : Failure) :
    (s.endWithError f).devQueue = s.devQueue := rfl
@[simp] theorem endWithError_hostData (s : State) (f : Failure) :
    (s.endWithError f).hostData = s.hostData := rfl
@[simp] theorem endWithError_draws (s : State) (f : Failure) :
    (s.endWithError f).draws = s.draws := rfl
@[simp] theorem endWithError_trace (s : State) (f : Failure) :
    (s.endWithError f).trace = s.trace := rfl

/-! ## startCommand -/

@[simp] theorem startCommand_params (s : State) (w : Word) :
    (s.startCommand w).params = s.params := rfl
@[simp] theorem startCommand_cmd (s : State) (w : Word) :
    (s.startCommand w).cmd = w := rfl
@[simp] theorem startCommand_arg (s : State) (w : Word) :
    (s.startCommand w).arg = s.arg := rfl
@[simp] theorem startCommand_res (s : State) (w : Word) :
    (s.startCommand w).res = s.res := rfl
@[simp] theorem startCommand_status (s : State) (w : Word) :
    (s.startCommand w).status = s.status.started := rfl
@[simp] theorem startCommand_errInfo (s : State) (w : Word) :
    (s.startCommand w).errInfo = ErrInfo.clear := rfl
@[simp] theorem startCommand_cfg (s : State) (w : Word) :
    (s.startCommand w).cfg = s.cfg := rfl
@[simp] theorem startCommand_key1 (s : State) (w : Word) :
    (s.startCommand w).key1 = s.key1 := rfl
@[simp] theorem startCommand_actMask (s : State) (w : Word) :
    (s.startCommand w).actMask = s.actMask := rfl
@[simp] theorem startCommand_mem (s : State) (w : Word) :
    (s.startCommand w).mem = s.mem := rfl
@[simp] theorem startCommand_k1s (s : State) (w : Word) :
    (s.startCommand w).k1s = s.k1s := rfl
@[simp] theorem startCommand_seq (s : State) (w : Word) :
    (s.startCommand w).seq = { s.seq with op := some (wordOp w) } := rfl
@[simp] theorem startCommand_stage (s : State) (w : Word) :
    (s.startCommand w).stage = s.stage := rfl
@[simp] theorem startCommand_latchedCfg (s : State) (w : Word) :
    (s.startCommand w).latchedCfg = s.latchedCfg := rfl
@[simp] theorem startCommand_latchedKey1 (s : State) (w : Word) :
    (s.startCommand w).latchedKey1 = s.latchedKey1 := rfl
@[simp] theorem startCommand_hostQueue (s : State) (w : Word) :
    (s.startCommand w).hostQueue = s.hostQueue := rfl
@[simp] theorem startCommand_devQueue (s : State) (w : Word) :
    (s.startCommand w).devQueue = s.devQueue := rfl
@[simp] theorem startCommand_hostData (s : State) (w : Word) :
    (s.startCommand w).hostData = s.hostData := rfl
@[simp] theorem startCommand_draws (s : State) (w : Word) :
    (s.startCommand w).draws = s.draws := rfl
@[simp] theorem startCommand_trace (s : State) (w : Word) :
    (s.startCommand w).trace = s.trace := rfl

/-! ## latchSession -/

@[simp] theorem latchSession_params (s : State) :
    (s.latchSession).params = s.params := rfl
@[simp] theorem latchSession_cmd (s : State) :
    (s.latchSession).cmd = s.cmd := rfl
@[simp] theorem latchSession_arg (s : State) :
    (s.latchSession).arg = s.arg := rfl
@[simp] theorem latchSession_res (s : State) :
    (s.latchSession).res = s.res := rfl
@[simp] theorem latchSession_status (s : State) :
    (s.latchSession).status = { s.status with busy := true, sstate := .idle } := rfl
@[simp] theorem latchSession_errInfo (s : State) :
    (s.latchSession).errInfo = s.errInfo := rfl
@[simp] theorem latchSession_cfg (s : State) :
    (s.latchSession).cfg = s.cfg := rfl
@[simp] theorem latchSession_key1 (s : State) :
    (s.latchSession).key1 = s.key1 := rfl
@[simp] theorem latchSession_actMask (s : State) :
    (s.latchSession).actMask = s.actMask := rfl
@[simp] theorem latchSession_mem (s : State) :
    (s.latchSession).mem = s.mem := rfl
@[simp] theorem latchSession_k1s (s : State) :
    (s.latchSession).k1s = s.k1s := rfl
@[simp] theorem latchSession_seq (s : State) :
    (s.latchSession).seq = { s.seq with doneSlots := 0 } := rfl
@[simp] theorem latchSession_stage (s : State) :
    (s.latchSession).stage = s.stage := rfl
@[simp] theorem latchSession_latchedCfg (s : State) :
    (s.latchSession).latchedCfg = s.cfg := rfl
@[simp] theorem latchSession_latchedKey1 (s : State) :
    (s.latchSession).latchedKey1 = s.key1 := rfl
@[simp] theorem latchSession_hostQueue (s : State) :
    (s.latchSession).hostQueue = s.hostQueue := rfl
@[simp] theorem latchSession_devQueue (s : State) :
    (s.latchSession).devQueue = s.devQueue := rfl
@[simp] theorem latchSession_hostData (s : State) :
    (s.latchSession).hostData = s.hostData := rfl
@[simp] theorem latchSession_draws (s : State) :
    (s.latchSession).draws = s.draws := rfl
@[simp] theorem latchSession_trace (s : State) :
    (s.latchSession).trace = s.trace := rfl

/-! ## beginHandshake -/

@[simp] theorem beginHandshake_params (s : State) :
    (s.beginHandshake).params = s.params := rfl
@[simp] theorem beginHandshake_cmd (s : State) :
    (s.beginHandshake).cmd = s.cmd := rfl
@[simp] theorem beginHandshake_arg (s : State) :
    (s.beginHandshake).arg = s.arg := rfl
@[simp] theorem beginHandshake_res (s : State) :
    (s.beginHandshake).res = s.res := rfl
@[simp] theorem beginHandshake_status (s : State) :
    (s.beginHandshake).status = s.status := rfl
@[simp] theorem beginHandshake_errInfo (s : State) :
    (s.beginHandshake).errInfo = s.errInfo := rfl
@[simp] theorem beginHandshake_cfg (s : State) :
    (s.beginHandshake).cfg = s.cfg := rfl
@[simp] theorem beginHandshake_key1 (s : State) :
    (s.beginHandshake).key1 = s.key1 := rfl
@[simp] theorem beginHandshake_actMask (s : State) :
    (s.beginHandshake).actMask = s.actMask := rfl
@[simp] theorem beginHandshake_mem (s : State) :
    (s.beginHandshake).mem = s.mem := rfl
@[simp] theorem beginHandshake_k1s (s : State) :
    (s.beginHandshake).k1s = sessionKey s.latchedCfg s.latchedKey1 := rfl
@[simp] theorem beginHandshake_seq (s : State) :
    (s.beginHandshake).seq = { s.seq with phase := .openLink, sent := 0, slot := 0, error := none } := rfl
@[simp] theorem beginHandshake_stage (s : State) :
    (s.beginHandshake).stage = s.stage := rfl
@[simp] theorem beginHandshake_latchedCfg (s : State) :
    (s.beginHandshake).latchedCfg = s.latchedCfg := rfl
@[simp] theorem beginHandshake_latchedKey1 (s : State) :
    (s.beginHandshake).latchedKey1 = s.latchedKey1 := rfl
@[simp] theorem beginHandshake_hostQueue (s : State) :
    (s.beginHandshake).hostQueue = s.hostQueue := rfl
@[simp] theorem beginHandshake_devQueue (s : State) :
    (s.beginHandshake).devQueue = s.devQueue := rfl
@[simp] theorem beginHandshake_hostData (s : State) :
    (s.beginHandshake).hostData = s.hostData := rfl
@[simp] theorem beginHandshake_draws (s : State) :
    (s.beginHandshake).draws = s.draws := rfl
@[simp] theorem beginHandshake_trace (s : State) :
    (s.beginHandshake).trace = [] := rfl

/-! ## endSession -/

@[simp] theorem endSession_params (s : State) :
    (s.endSession).params = s.params := rfl
@[simp] theorem endSession_cmd (s : State) :
    (s.endSession).cmd = s.cmd := rfl
@[simp] theorem endSession_arg (s : State) :
    (s.endSession).arg = s.arg := rfl
@[simp] theorem endSession_res (s : State) :
    (s.endSession).res = BitVec.ofNat 32 s.seq.doneSlots := rfl
@[simp] theorem endSession_status (s : State) :
    (s.endSession).status = { s.status with link := false, baudHi := false, busy := false, done := true } := rfl
@[simp] theorem endSession_errInfo (s : State) :
    (s.endSession).errInfo = s.errInfo := rfl
@[simp] theorem endSession_cfg (s : State) :
    (s.endSession).cfg = s.cfg := rfl
@[simp] theorem endSession_key1 (s : State) :
    (s.endSession).key1 = s.key1 := rfl
@[simp] theorem endSession_actMask (s : State) :
    (s.endSession).actMask = s.actMask := rfl
@[simp] theorem endSession_mem (s : State) :
    (s.endSession).mem = s.mem := rfl
@[simp] theorem endSession_k1s (s : State) :
    (s.endSession).k1s = 0 := rfl
@[simp] theorem endSession_seq (s : State) :
    (s.endSession).seq = { s.seq with phase := .idle, sent := 0, slot := 0 } := rfl
@[simp] theorem endSession_stage (s : State) :
    (s.endSession).stage = s.stage := rfl
@[simp] theorem endSession_latchedCfg (s : State) :
    (s.endSession).latchedCfg = s.latchedCfg := rfl
@[simp] theorem endSession_latchedKey1 (s : State) :
    (s.endSession).latchedKey1 = s.latchedKey1 := rfl
@[simp] theorem endSession_hostQueue (s : State) :
    (s.endSession).hostQueue = s.hostQueue := rfl
@[simp] theorem endSession_devQueue (s : State) :
    (s.endSession).devQueue = s.devQueue := rfl
@[simp] theorem endSession_hostData (s : State) :
    (s.endSession).hostData = s.hostData := rfl
@[simp] theorem endSession_draws (s : State) :
    (s.endSession).draws = s.draws := rfl
@[simp] theorem endSession_trace (s : State) :
    (s.endSession).trace = s.trace := rfl

/-! ## setSession -/

@[simp] theorem setSession_params (s : State) (v : SessionState) :
    (s.setSession v).params = s.params := rfl
@[simp] theorem setSession_cmd (s : State) (v : SessionState) :
    (s.setSession v).cmd = s.cmd := rfl
@[simp] theorem setSession_arg (s : State) (v : SessionState) :
    (s.setSession v).arg = s.arg := rfl
@[simp] theorem setSession_res (s : State) (v : SessionState) :
    (s.setSession v).res = s.res := rfl
@[simp] theorem setSession_status (s : State) (v : SessionState) :
    (s.setSession v).status = { s.status with sstate := v } := rfl
@[simp] theorem setSession_errInfo (s : State) (v : SessionState) :
    (s.setSession v).errInfo = s.errInfo := rfl
@[simp] theorem setSession_cfg (s : State) (v : SessionState) :
    (s.setSession v).cfg = s.cfg := rfl
@[simp] theorem setSession_key1 (s : State) (v : SessionState) :
    (s.setSession v).key1 = s.key1 := rfl
@[simp] theorem setSession_actMask (s : State) (v : SessionState) :
    (s.setSession v).actMask = s.actMask := rfl
@[simp] theorem setSession_mem (s : State) (v : SessionState) :
    (s.setSession v).mem = s.mem := rfl
@[simp] theorem setSession_k1s (s : State) (v : SessionState) :
    (s.setSession v).k1s = s.k1s := rfl
@[simp] theorem setSession_seq (s : State) (v : SessionState) :
    (s.setSession v).seq = s.seq := rfl
@[simp] theorem setSession_stage (s : State) (v : SessionState) :
    (s.setSession v).stage = s.stage := rfl
@[simp] theorem setSession_latchedCfg (s : State) (v : SessionState) :
    (s.setSession v).latchedCfg = s.latchedCfg := rfl
@[simp] theorem setSession_latchedKey1 (s : State) (v : SessionState) :
    (s.setSession v).latchedKey1 = s.latchedKey1 := rfl
@[simp] theorem setSession_hostQueue (s : State) (v : SessionState) :
    (s.setSession v).hostQueue = s.hostQueue := rfl
@[simp] theorem setSession_devQueue (s : State) (v : SessionState) :
    (s.setSession v).devQueue = s.devQueue := rfl
@[simp] theorem setSession_hostData (s : State) (v : SessionState) :
    (s.setSession v).hostData = s.hostData := rfl
@[simp] theorem setSession_draws (s : State) (v : SessionState) :
    (s.setSession v).draws = s.draws := rfl
@[simp] theorem setSession_trace (s : State) (v : SessionState) :
    (s.setSession v).trace = s.trace := rfl

/-! ## goto -/

@[simp] theorem goto_params (s : State) (p : SeqPhase) :
    (s.goto p).params = s.params := rfl
@[simp] theorem goto_cmd (s : State) (p : SeqPhase) :
    (s.goto p).cmd = s.cmd := rfl
@[simp] theorem goto_arg (s : State) (p : SeqPhase) :
    (s.goto p).arg = s.arg := rfl
@[simp] theorem goto_res (s : State) (p : SeqPhase) :
    (s.goto p).res = s.res := rfl
@[simp] theorem goto_status (s : State) (p : SeqPhase) :
    (s.goto p).status = s.status := rfl
@[simp] theorem goto_errInfo (s : State) (p : SeqPhase) :
    (s.goto p).errInfo = s.errInfo := rfl
@[simp] theorem goto_cfg (s : State) (p : SeqPhase) :
    (s.goto p).cfg = s.cfg := rfl
@[simp] theorem goto_key1 (s : State) (p : SeqPhase) :
    (s.goto p).key1 = s.key1 := rfl
@[simp] theorem goto_actMask (s : State) (p : SeqPhase) :
    (s.goto p).actMask = s.actMask := rfl
@[simp] theorem goto_mem (s : State) (p : SeqPhase) :
    (s.goto p).mem = s.mem := rfl
@[simp] theorem goto_k1s (s : State) (p : SeqPhase) :
    (s.goto p).k1s = s.k1s := rfl
@[simp] theorem goto_seq (s : State) (p : SeqPhase) :
    (s.goto p).seq = { s.seq with phase := p, sent := 0 } := rfl
@[simp] theorem goto_stage (s : State) (p : SeqPhase) :
    (s.goto p).stage = s.stage := rfl
@[simp] theorem goto_latchedCfg (s : State) (p : SeqPhase) :
    (s.goto p).latchedCfg = s.latchedCfg := rfl
@[simp] theorem goto_latchedKey1 (s : State) (p : SeqPhase) :
    (s.goto p).latchedKey1 = s.latchedKey1 := rfl
@[simp] theorem goto_hostQueue (s : State) (p : SeqPhase) :
    (s.goto p).hostQueue = s.hostQueue := rfl
@[simp] theorem goto_devQueue (s : State) (p : SeqPhase) :
    (s.goto p).devQueue = s.devQueue := rfl
@[simp] theorem goto_hostData (s : State) (p : SeqPhase) :
    (s.goto p).hostData = s.hostData := rfl
@[simp] theorem goto_draws (s : State) (p : SeqPhase) :
    (s.goto p).draws = s.draws := rfl
@[simp] theorem goto_trace (s : State) (p : SeqPhase) :
    (s.goto p).trace = s.trace := rfl

/-! ## setSlot -/

@[simp] theorem setSlot_params (s : State) (n : Nat) :
    (s.setSlot n).params = s.params := rfl
@[simp] theorem setSlot_cmd (s : State) (n : Nat) :
    (s.setSlot n).cmd = s.cmd := rfl
@[simp] theorem setSlot_arg (s : State) (n : Nat) :
    (s.setSlot n).arg = s.arg := rfl
@[simp] theorem setSlot_res (s : State) (n : Nat) :
    (s.setSlot n).res = s.res := rfl
@[simp] theorem setSlot_status (s : State) (n : Nat) :
    (s.setSlot n).status = s.status := rfl
@[simp] theorem setSlot_errInfo (s : State) (n : Nat) :
    (s.setSlot n).errInfo = s.errInfo := rfl
@[simp] theorem setSlot_cfg (s : State) (n : Nat) :
    (s.setSlot n).cfg = s.cfg := rfl
@[simp] theorem setSlot_key1 (s : State) (n : Nat) :
    (s.setSlot n).key1 = s.key1 := rfl
@[simp] theorem setSlot_actMask (s : State) (n : Nat) :
    (s.setSlot n).actMask = s.actMask := rfl
@[simp] theorem setSlot_mem (s : State) (n : Nat) :
    (s.setSlot n).mem = s.mem := rfl
@[simp] theorem setSlot_k1s (s : State) (n : Nat) :
    (s.setSlot n).k1s = s.k1s := rfl
@[simp] theorem setSlot_seq (s : State) (n : Nat) :
    (s.setSlot n).seq = { s.seq with slot := n } := rfl
@[simp] theorem setSlot_stage (s : State) (n : Nat) :
    (s.setSlot n).stage = s.stage := rfl
@[simp] theorem setSlot_latchedCfg (s : State) (n : Nat) :
    (s.setSlot n).latchedCfg = s.latchedCfg := rfl
@[simp] theorem setSlot_latchedKey1 (s : State) (n : Nat) :
    (s.setSlot n).latchedKey1 = s.latchedKey1 := rfl
@[simp] theorem setSlot_hostQueue (s : State) (n : Nat) :
    (s.setSlot n).hostQueue = s.hostQueue := rfl
@[simp] theorem setSlot_devQueue (s : State) (n : Nat) :
    (s.setSlot n).devQueue = s.devQueue := rfl
@[simp] theorem setSlot_hostData (s : State) (n : Nat) :
    (s.setSlot n).hostData = s.hostData := rfl
@[simp] theorem setSlot_draws (s : State) (n : Nat) :
    (s.setSlot n).draws = s.draws := rfl
@[simp] theorem setSlot_trace (s : State) (n : Nat) :
    (s.setSlot n).trace = s.trace := rfl

/-! ## countSlot -/

@[simp] theorem countSlot_params (s : State) :
    (s.countSlot).params = s.params := rfl
@[simp] theorem countSlot_cmd (s : State) :
    (s.countSlot).cmd = s.cmd := rfl
@[simp] theorem countSlot_arg (s : State) :
    (s.countSlot).arg = s.arg := rfl
@[simp] theorem countSlot_res (s : State) :
    (s.countSlot).res = s.res := rfl
@[simp] theorem countSlot_status (s : State) :
    (s.countSlot).status = s.status := rfl
@[simp] theorem countSlot_errInfo (s : State) :
    (s.countSlot).errInfo = s.errInfo := rfl
@[simp] theorem countSlot_cfg (s : State) :
    (s.countSlot).cfg = s.cfg := rfl
@[simp] theorem countSlot_key1 (s : State) :
    (s.countSlot).key1 = s.key1 := rfl
@[simp] theorem countSlot_actMask (s : State) :
    (s.countSlot).actMask = s.actMask := rfl
@[simp] theorem countSlot_mem (s : State) :
    (s.countSlot).mem = s.mem := rfl
@[simp] theorem countSlot_k1s (s : State) :
    (s.countSlot).k1s = s.k1s := rfl
@[simp] theorem countSlot_seq (s : State) :
    (s.countSlot).seq = { s.seq with doneSlots := s.seq.doneSlots + 1 } := rfl
@[simp] theorem countSlot_stage (s : State) :
    (s.countSlot).stage = s.stage := rfl
@[simp] theorem countSlot_latchedCfg (s : State) :
    (s.countSlot).latchedCfg = s.latchedCfg := rfl
@[simp] theorem countSlot_latchedKey1 (s : State) :
    (s.countSlot).latchedKey1 = s.latchedKey1 := rfl
@[simp] theorem countSlot_hostQueue (s : State) :
    (s.countSlot).hostQueue = s.hostQueue := rfl
@[simp] theorem countSlot_devQueue (s : State) :
    (s.countSlot).devQueue = s.devQueue := rfl
@[simp] theorem countSlot_hostData (s : State) :
    (s.countSlot).hostData = s.hostData := rfl
@[simp] theorem countSlot_draws (s : State) :
    (s.countSlot).draws = s.draws := rfl
@[simp] theorem countSlot_trace (s : State) :
    (s.countSlot).trace = s.trace := rfl

/-! ## fail -/

@[simp] theorem fail_params (s : State) (f : Failure) :
    (s.fail f).params = s.params := rfl
@[simp] theorem fail_cmd (s : State) (f : Failure) :
    (s.fail f).cmd = s.cmd := rfl
@[simp] theorem fail_arg (s : State) (f : Failure) :
    (s.fail f).arg = s.arg := rfl
@[simp] theorem fail_res (s : State) (f : Failure) :
    (s.fail f).res = s.res := rfl
@[simp] theorem fail_status (s : State) (f : Failure) :
    (s.fail f).status = { s.status with sstate := .failed } := rfl
@[simp] theorem fail_errInfo (s : State) (f : Failure) :
    (s.fail f).errInfo = s.errInfo := rfl
@[simp] theorem fail_cfg (s : State) (f : Failure) :
    (s.fail f).cfg = s.cfg := rfl
@[simp] theorem fail_key1 (s : State) (f : Failure) :
    (s.fail f).key1 = s.key1 := rfl
@[simp] theorem fail_actMask (s : State) (f : Failure) :
    (s.fail f).actMask = s.actMask := rfl
@[simp] theorem fail_mem (s : State) (f : Failure) :
    (s.fail f).mem = s.mem := rfl
@[simp] theorem fail_k1s (s : State) (f : Failure) :
    (s.fail f).k1s = s.k1s := rfl
@[simp] theorem fail_seq (s : State) (f : Failure) :
    (s.fail f).seq = { s.seq with error := some f, phase := .termSend, sent := 0, slot := 0 } := rfl
@[simp] theorem fail_stage (s : State) (f : Failure) :
    (s.fail f).stage = s.stage := rfl
@[simp] theorem fail_latchedCfg (s : State) (f : Failure) :
    (s.fail f).latchedCfg = s.latchedCfg := rfl
@[simp] theorem fail_latchedKey1 (s : State) (f : Failure) :
    (s.fail f).latchedKey1 = s.latchedKey1 := rfl
@[simp] theorem fail_hostQueue (s : State) (f : Failure) :
    (s.fail f).hostQueue = s.hostQueue := rfl
@[simp] theorem fail_devQueue (s : State) (f : Failure) :
    (s.fail f).devQueue = s.devQueue := rfl
@[simp] theorem fail_hostData (s : State) (f : Failure) :
    (s.fail f).hostData = s.hostData := rfl
@[simp] theorem fail_draws (s : State) (f : Failure) :
    (s.fail f).draws = s.draws := rfl
@[simp] theorem fail_trace (s : State) (f : Failure) :
    (s.fail f).trace = s.trace := rfl

/-! ## failUnopened -/

@[simp] theorem failUnopened_params (s : State) (f : Failure) :
    (s.failUnopened f).params = s.params := rfl
@[simp] theorem failUnopened_cmd (s : State) (f : Failure) :
    (s.failUnopened f).cmd = s.cmd := rfl
@[simp] theorem failUnopened_arg (s : State) (f : Failure) :
    (s.failUnopened f).arg = s.arg := rfl
@[simp] theorem failUnopened_res (s : State) (f : Failure) :
    (s.failUnopened f).res = BitVec.ofNat 32 s.seq.doneSlots := rfl
@[simp] theorem failUnopened_status (s : State) (f : Failure) :
    (s.failUnopened f).status = ({ s.status with sstate := .failed, link := false, baudHi := false, busy := false, done := true } : Status).errored f.kind := rfl
@[simp] theorem failUnopened_errInfo (s : State) (f : Failure) :
    (s.failUnopened f).errInfo = f.info := rfl
@[simp] theorem failUnopened_cfg (s : State) (f : Failure) :
    (s.failUnopened f).cfg = s.cfg := rfl
@[simp] theorem failUnopened_key1 (s : State) (f : Failure) :
    (s.failUnopened f).key1 = s.key1 := rfl
@[simp] theorem failUnopened_actMask (s : State) (f : Failure) :
    (s.failUnopened f).actMask = s.actMask := rfl
@[simp] theorem failUnopened_mem (s : State) (f : Failure) :
    (s.failUnopened f).mem = s.mem := rfl
@[simp] theorem failUnopened_k1s (s : State) (f : Failure) :
    (s.failUnopened f).k1s = 0 := rfl
@[simp] theorem failUnopened_seq (s : State) (f : Failure) :
    (s.failUnopened f).seq = { s.seq with op := none, phase := .idle, sent := 0, slot := 0, error := none } := rfl
@[simp] theorem failUnopened_stage (s : State) (f : Failure) :
    (s.failUnopened f).stage = s.stage := rfl
@[simp] theorem failUnopened_latchedCfg (s : State) (f : Failure) :
    (s.failUnopened f).latchedCfg = s.latchedCfg := rfl
@[simp] theorem failUnopened_latchedKey1 (s : State) (f : Failure) :
    (s.failUnopened f).latchedKey1 = s.latchedKey1 := rfl
@[simp] theorem failUnopened_hostQueue (s : State) (f : Failure) :
    (s.failUnopened f).hostQueue = s.hostQueue := rfl
@[simp] theorem failUnopened_devQueue (s : State) (f : Failure) :
    (s.failUnopened f).devQueue = s.devQueue := rfl
@[simp] theorem failUnopened_hostData (s : State) (f : Failure) :
    (s.failUnopened f).hostData = s.hostData := rfl
@[simp] theorem failUnopened_draws (s : State) (f : Failure) :
    (s.failUnopened f).draws = s.draws := rfl
@[simp] theorem failUnopened_trace (s : State) (f : Failure) :
    (s.failUnopened f).trace = s.trace := rfl

/-! ## emit -/

@[simp] theorem emit_params (s : State) (e : Event) :
    (s.emit e).params = s.params := rfl
@[simp] theorem emit_cmd (s : State) (e : Event) :
    (s.emit e).cmd = s.cmd := rfl
@[simp] theorem emit_arg (s : State) (e : Event) :
    (s.emit e).arg = s.arg := rfl
@[simp] theorem emit_res (s : State) (e : Event) :
    (s.emit e).res = s.res := rfl
@[simp] theorem emit_status (s : State) (e : Event) :
    (s.emit e).status = s.status := rfl
@[simp] theorem emit_errInfo (s : State) (e : Event) :
    (s.emit e).errInfo = s.errInfo := rfl
@[simp] theorem emit_cfg (s : State) (e : Event) :
    (s.emit e).cfg = s.cfg := rfl
@[simp] theorem emit_key1 (s : State) (e : Event) :
    (s.emit e).key1 = s.key1 := rfl
@[simp] theorem emit_actMask (s : State) (e : Event) :
    (s.emit e).actMask = s.actMask := rfl
@[simp] theorem emit_mem (s : State) (e : Event) :
    (s.emit e).mem = s.mem := rfl
@[simp] theorem emit_k1s (s : State) (e : Event) :
    (s.emit e).k1s = s.k1s := rfl
@[simp] theorem emit_seq (s : State) (e : Event) :
    (s.emit e).seq = s.seq := rfl
@[simp] theorem emit_stage (s : State) (e : Event) :
    (s.emit e).stage = s.stage := rfl
@[simp] theorem emit_latchedCfg (s : State) (e : Event) :
    (s.emit e).latchedCfg = s.latchedCfg := rfl
@[simp] theorem emit_latchedKey1 (s : State) (e : Event) :
    (s.emit e).latchedKey1 = s.latchedKey1 := rfl
@[simp] theorem emit_hostQueue (s : State) (e : Event) :
    (s.emit e).hostQueue = s.hostQueue := rfl
@[simp] theorem emit_devQueue (s : State) (e : Event) :
    (s.emit e).devQueue = s.devQueue := rfl
@[simp] theorem emit_hostData (s : State) (e : Event) :
    (s.emit e).hostData = s.hostData := rfl
@[simp] theorem emit_draws (s : State) (e : Event) :
    (s.emit e).draws = s.draws := rfl
@[simp] theorem emit_trace (s : State) (e : Event) :
    (s.emit e).trace = s.trace ++ [e] := rfl

/-! ## storeImage -/

@[simp] theorem storeImage_params (s : State) (rs : List (List Byte)) :
    (s.storeImage rs).params = s.params := rfl
@[simp] theorem storeImage_cmd (s : State) (rs : List (List Byte)) :
    (s.storeImage rs).cmd = s.cmd := rfl
@[simp] theorem storeImage_arg (s : State) (rs : List (List Byte)) :
    (s.storeImage rs).arg = s.arg := rfl
@[simp] theorem storeImage_res (s : State) (rs : List (List Byte)) :
    (s.storeImage rs).res = s.res := rfl
@[simp] theorem storeImage_status (s : State) (rs : List (List Byte)) :
    (s.storeImage rs).status = s.status := rfl
@[simp] theorem storeImage_errInfo (s : State) (rs : List (List Byte)) :
    (s.storeImage rs).errInfo = s.errInfo := rfl
@[simp] theorem storeImage_cfg (s : State) (rs : List (List Byte)) :
    (s.storeImage rs).cfg = s.cfg := rfl
@[simp] theorem storeImage_key1 (s : State) (rs : List (List Byte)) :
    (s.storeImage rs).key1 = s.key1 := rfl
@[simp] theorem storeImage_actMask (s : State) (rs : List (List Byte)) :
    (s.storeImage rs).actMask = activeMask s.mem := rfl
@[simp] theorem storeImage_mem (s : State) (rs : List (List Byte)) :
    (s.storeImage rs).mem = writeImage s.mem rs := rfl
@[simp] theorem storeImage_k1s (s : State) (rs : List (List Byte)) :
    (s.storeImage rs).k1s = s.k1s := rfl
@[simp] theorem storeImage_seq (s : State) (rs : List (List Byte)) :
    (s.storeImage rs).seq = s.seq := rfl
@[simp] theorem storeImage_stage (s : State) (rs : List (List Byte)) :
    (s.storeImage rs).stage = s.stage := rfl
@[simp] theorem storeImage_latchedCfg (s : State) (rs : List (List Byte)) :
    (s.storeImage rs).latchedCfg = s.latchedCfg := rfl
@[simp] theorem storeImage_latchedKey1 (s : State) (rs : List (List Byte)) :
    (s.storeImage rs).latchedKey1 = s.latchedKey1 := rfl
@[simp] theorem storeImage_hostQueue (s : State) (rs : List (List Byte)) :
    (s.storeImage rs).hostQueue = s.hostQueue := rfl
@[simp] theorem storeImage_devQueue (s : State) (rs : List (List Byte)) :
    (s.storeImage rs).devQueue = s.devQueue := rfl
@[simp] theorem storeImage_hostData (s : State) (rs : List (List Byte)) :
    (s.storeImage rs).hostData = s.hostData := rfl
@[simp] theorem storeImage_draws (s : State) (rs : List (List Byte)) :
    (s.storeImage rs).draws = s.draws := rfl
@[simp] theorem storeImage_trace (s : State) (rs : List (List Byte)) :
    (s.storeImage rs).trace = s.trace := rfl

/-! ## resetInput -/

@[simp] theorem resetInput_params (s : State) :
    s.resetInput.params = s.params := rfl
@[simp] theorem resetInput_cmd (s : State) :
    s.resetInput.cmd = State.reset.cmd := rfl
@[simp] theorem resetInput_arg (s : State) :
    s.resetInput.arg = State.reset.arg := rfl
@[simp] theorem resetInput_res (s : State) :
    s.resetInput.res = State.reset.res := rfl
@[simp] theorem resetInput_status (s : State) :
    s.resetInput.status = State.reset.status := rfl
@[simp] theorem resetInput_errInfo (s : State) :
    s.resetInput.errInfo = State.reset.errInfo := rfl
@[simp] theorem resetInput_cfg (s : State) :
    s.resetInput.cfg = State.reset.cfg := rfl
@[simp] theorem resetInput_key1 (s : State) :
    s.resetInput.key1 = State.reset.key1 := rfl
@[simp] theorem resetInput_actMask (s : State) :
    s.resetInput.actMask = State.reset.actMask := rfl
@[simp] theorem resetInput_mem (s : State) :
    s.resetInput.mem = State.reset.mem := rfl
@[simp] theorem resetInput_k1s (s : State) :
    s.resetInput.k1s = State.reset.k1s := rfl
@[simp] theorem resetInput_seq (s : State) :
    s.resetInput.seq = State.reset.seq := rfl
@[simp] theorem resetInput_stage (s : State) :
    s.resetInput.stage = State.reset.stage := rfl
@[simp] theorem resetInput_latchedCfg (s : State) :
    s.resetInput.latchedCfg = State.reset.latchedCfg := rfl
@[simp] theorem resetInput_latchedKey1 (s : State) :
    s.resetInput.latchedKey1 = State.reset.latchedKey1 := rfl
@[simp] theorem resetInput_hostQueue (s : State) :
    s.resetInput.hostQueue = s.hostQueue := rfl
@[simp] theorem resetInput_devQueue (s : State) :
    s.resetInput.devQueue = s.devQueue := rfl
@[simp] theorem resetInput_hostData (s : State) :
    s.resetInput.hostData = s.hostData := rfl
@[simp] theorem resetInput_draws (s : State) :
    s.resetInput.draws = s.draws := rfl
@[simp] theorem resetInput_trace (s : State) :
    s.resetInput.trace = s.trace := rfl

/-! ## An answer of DEV is used up: only `devQueue` and `draws` change -/

@[simp] theorem answered_params (s : State) : s.answered.params = s.params := by
  unfold State.answered; split <;> rfl
@[simp] theorem answered_cmd (s : State) : s.answered.cmd = s.cmd := by
  unfold State.answered; split <;> rfl
@[simp] theorem answered_arg (s : State) : s.answered.arg = s.arg := by
  unfold State.answered; split <;> rfl
@[simp] theorem answered_res (s : State) : s.answered.res = s.res := by
  unfold State.answered; split <;> rfl
@[simp] theorem answered_status (s : State) : s.answered.status = s.status := by
  unfold State.answered; split <;> rfl
@[simp] theorem answered_errInfo (s : State) : s.answered.errInfo = s.errInfo := by
  unfold State.answered; split <;> rfl
@[simp] theorem answered_cfg (s : State) : s.answered.cfg = s.cfg := by
  unfold State.answered; split <;> rfl
@[simp] theorem answered_key1 (s : State) : s.answered.key1 = s.key1 := by
  unfold State.answered; split <;> rfl
@[simp] theorem answered_actMask (s : State) : s.answered.actMask = s.actMask := by
  unfold State.answered; split <;> rfl
@[simp] theorem answered_mem (s : State) : s.answered.mem = s.mem := by
  unfold State.answered; split <;> rfl
@[simp] theorem answered_k1s (s : State) : s.answered.k1s = s.k1s := by
  unfold State.answered; split <;> rfl
@[simp] theorem answered_seq (s : State) : s.answered.seq = s.seq := by
  unfold State.answered; split <;> rfl
@[simp] theorem answered_stage (s : State) : s.answered.stage = s.stage := by
  unfold State.answered; split <;> rfl
@[simp] theorem answered_latchedCfg (s : State) : s.answered.latchedCfg = s.latchedCfg := by
  unfold State.answered; split <;> rfl
@[simp] theorem answered_latchedKey1 (s : State) : s.answered.latchedKey1 = s.latchedKey1 := by
  unfold State.answered; split <;> rfl
@[simp] theorem answered_hostQueue (s : State) : s.answered.hostQueue = s.hostQueue := by
  unfold State.answered; split <;> rfl
@[simp] theorem answered_hostData (s : State) : s.answered.hostData = s.hostData := by
  unfold State.answered; split <;> rfl
@[simp] theorem answered_trace (s : State) : s.answered.trace = s.trace := by
  unfold State.answered; split <;> rfl

/-! ## RX -/

@[simp] theorem afterRx_params (s : State) (n : Nat) :
    (s.afterRx n).params = s.params := by
  simp [State.afterRx]
@[simp] theorem afterRx_cmd (s : State) (n : Nat) :
    (s.afterRx n).cmd = s.cmd := by
  simp [State.afterRx]
@[simp] theorem afterRx_arg (s : State) (n : Nat) :
    (s.afterRx n).arg = s.arg := by
  simp [State.afterRx]
@[simp] theorem afterRx_res (s : State) (n : Nat) :
    (s.afterRx n).res = s.res := by
  simp [State.afterRx]
@[simp] theorem afterRx_status (s : State) (n : Nat) :
    (s.afterRx n).status = s.status := by
  simp [State.afterRx]
@[simp] theorem afterRx_errInfo (s : State) (n : Nat) :
    (s.afterRx n).errInfo = s.errInfo := by
  simp [State.afterRx]
@[simp] theorem afterRx_cfg (s : State) (n : Nat) :
    (s.afterRx n).cfg = s.cfg := by
  simp [State.afterRx]
@[simp] theorem afterRx_key1 (s : State) (n : Nat) :
    (s.afterRx n).key1 = s.key1 := by
  simp [State.afterRx]
@[simp] theorem afterRx_actMask (s : State) (n : Nat) :
    (s.afterRx n).actMask = s.actMask := by
  simp [State.afterRx]
@[simp] theorem afterRx_mem (s : State) (n : Nat) :
    (s.afterRx n).mem = s.mem := by
  simp [State.afterRx]
@[simp] theorem afterRx_k1s (s : State) (n : Nat) :
    (s.afterRx n).k1s = s.k1s := by
  simp [State.afterRx]
@[simp] theorem afterRx_seq (s : State) (n : Nat) :
    (s.afterRx n).seq = s.seq := by
  simp [State.afterRx]
@[simp] theorem afterRx_stage (s : State) (n : Nat) :
    (s.afterRx n).stage = s.stage := by
  simp [State.afterRx]
@[simp] theorem afterRx_latchedCfg (s : State) (n : Nat) :
    (s.afterRx n).latchedCfg = s.latchedCfg := by
  simp [State.afterRx]
@[simp] theorem afterRx_latchedKey1 (s : State) (n : Nat) :
    (s.afterRx n).latchedKey1 = s.latchedKey1 := by
  simp [State.afterRx]
@[simp] theorem afterRx_hostQueue (s : State) (n : Nat) :
    (s.afterRx n).hostQueue = s.hostQueue := by
  simp [State.afterRx]
@[simp] theorem afterRx_devQueue (s : State) (n : Nat) :
    (s.afterRx n).devQueue = s.answered.devQueue := rfl
@[simp] theorem afterRx_hostData (s : State) (n : Nat) :
    (s.afterRx n).hostData = s.hostData := by
  simp [State.afterRx]
@[simp] theorem afterRx_draws (s : State) (n : Nat) :
    (s.afterRx n).draws = s.answered.draws := rfl
@[simp] theorem afterRx_trace (s : State) (n : Nat) :
    (s.afterRx n).trace = s.trace ++ [.rx n (s.rxAnswer n)] := by
  simp [State.afterRx]

/-! ## Pending answers -/

@[simp] theorem devAnswer_cons (s : State) (a : DevAnswer) (q : List DevAnswer)
    (h : s.devQueue = a :: q) : s.devAnswer = a := by simp [State.devAnswer, h]

theorem answered_cons (s : State) (a : DevAnswer) (q : List DevAnswer) (h : s.devQueue = a :: q) :
    s.answered = { s with devQueue := q } := by simp [State.answered, h]

theorem rxAnswer_present (s : State) (d : List Byte) (q : List DevAnswer) (n : Nat)
    (h : s.devQueue = .present d :: q) : s.rxAnswer n = some (answerBytes d n) := by
  simp [State.rxAnswer, State.devAnswer, h]

theorem rxAnswer_absent (s : State) (q : List DevAnswer) (n : Nat)
    (h : s.devQueue = .absent :: q) : s.rxAnswer n = none := by
  simp [State.rxAnswer, State.devAnswer, h]

@[simp] theorem answerBytes_length (d : List Byte) (n : Nat) : (answerBytes d n).length = n := by
  simp [answerBytes]

/-- An answer to `RX(n)` has n bytes. -/
theorem rxAnswer_length {s : State} {n : Nat} {bs : List Byte} (h : s.rxAnswer n = some bs) :
    bs.length = n := by
  unfold State.rxAnswer at h
  split at h
  · cases h
  · cases h; simp

/-- An answer of exactly n bytes is delivered as it is. -/
theorem answerBytes_self (d : List Byte) : answerBytes d d.length = d := by
  refine List.ext_getElem (by simp) fun k h1 h2 => ?_
  simp [answerBytes, List.getElem?_eq_getElem h2]

/-! ## The flags a command's start, success and error leave -/

@[simp] theorem started_busy (st : Status) : st.started.busy = st.busy := rfl
@[simp] theorem started_done (st : Status) : st.started.done = false := rfl
@[simp] theorem started_err (st : Status) : st.started.err = false := rfl
@[simp] theorem started_termFail (st : Status) : st.started.termFail = false := rfl
@[simp] theorem started_ecode (st : Status) : st.started.ecode = none := rfl
@[simp] theorem started_sstate (st : Status) : st.started.sstate = st.sstate := rfl
@[simp] theorem started_link (st : Status) : st.started.link = st.link := rfl
@[simp] theorem started_baudHi (st : Status) : st.started.baudHi = st.baudHi := rfl
@[simp] theorem succeeded_busy (st : Status) : st.succeeded.busy = st.busy := rfl
@[simp] theorem succeeded_done (st : Status) : st.succeeded.done = true := rfl
@[simp] theorem succeeded_err (st : Status) : st.succeeded.err = false := rfl
@[simp] theorem succeeded_termFail (st : Status) : st.succeeded.termFail = st.termFail := rfl
@[simp] theorem succeeded_ecode (st : Status) : st.succeeded.ecode = none := rfl
@[simp] theorem succeeded_sstate (st : Status) : st.succeeded.sstate = st.sstate := rfl
@[simp] theorem succeeded_link (st : Status) : st.succeeded.link = st.link := rfl
@[simp] theorem succeeded_baudHi (st : Status) : st.succeeded.baudHi = st.baudHi := rfl
@[simp] theorem errored_busy (st : Status) (k : ErrorKind) : (st.errored k).busy = false := rfl
@[simp] theorem errored_done (st : Status) (k : ErrorKind) : (st.errored k).done = true := rfl
@[simp] theorem errored_err (st : Status) (k : ErrorKind) : (st.errored k).err = true := rfl
@[simp] theorem errored_termFail (st : Status) (k : ErrorKind) :
    (st.errored k).termFail = st.termFail := rfl
@[simp] theorem errored_ecode (st : Status) (k : ErrorKind) : (st.errored k).ecode = some k := rfl
@[simp] theorem errored_sstate (st : Status) (k : ErrorKind) :
    (st.errored k).sstate = st.sstate := rfl
@[simp] theorem errored_link (st : Status) (k : ErrorKind) : (st.errored k).link = st.link := rfl
@[simp] theorem errored_baudHi (st : Status) (k : ErrorKind) :
    (st.errored k).baudHi = st.baudHi := rfl

end Sys2Proof.Machine
end

