-- ==== Sys2Proof/Laws/HostPort.lean ====
section
/-! SUPPORT. The laws of the host port: which accesses are accepted, what a read delivers byte by byte,
what a write changes, and the one step of each host act. -/

namespace Sys2Proof.Machine

open Sys2Proof.Config

/-! ## Bytes of numbers -/

/-- The k-th byte of a little-endian number. -/
theorem leNat_digit (bs : List Byte) :
    ∀ k, k < bs.length → leNat bs / 256 ^ k % 256 = (bs.getD k 0).toNat := by
  induction bs with
  | nil => intro k h; simp at h
  | cons b bs ih =>
    intro k h
    cases k with
    | zero => simp [leNat]; omega
    | succ k =>
      simp only [List.length_cons] at h
      rw [List.getD_cons_succ, ← ih k (by omega), leNat, Nat.pow_succ', ← Nat.div_div_eq_div_mul]
      congr 2
      have := b.isLt
      omega

theorem leBytes_getD (n : Nat) :
    ∀ v k, k < n → (leBytes n v).getD k 0 = BitVec.ofNat 8 (v / 256 ^ k) := by
  induction n with
  | zero => intro v k h; omega
  | succ n ih =>
    intro v k h
    cases k with
    | zero => simp [leBytes]
    | succ k =>
      rw [leBytes, List.getD_cons_succ, ih _ _ (by omega), Nat.pow_succ', Nat.div_div_eq_div_mul]

/-- A register's byte k is its bits 8k+7..8k (R31). -/
theorem word_byte (w : Word) (k : Nat) :
    w.extractLsb' (8 * k) 8 = BitVec.ofNat 8 (w.toNat / 256 ^ k) := by
  apply BitVec.eq_of_toNat_eq
  rw [BitVec.extractLsb'_toNat, Nat.shiftRight_eq_div_pow, BitVec.toNat_ofNat, Nat.pow_mul]

/-- The four bytes of a register, least significant first, are the register. -/
theorem word_bytes (w : Word) :
    BitVec.ofNat 32 (leNat [w.extractLsb' 0 8, w.extractLsb' 8 8, w.extractLsb' 16 8,
      w.extractLsb' 24 8]) = w := by
  apply BitVec.eq_of_toNat_eq
  have := w.isLt
  simp [leNat, BitVec.extractLsb'_toNat, Nat.shiftRight_eq_div_pow]
  omega

/-! ## Which accesses are accepted -/

theorem accessRefusal_none_iff (n a : Nat) :
    accessRefusal n a = none ↔ accessWellFormed n a = true := by
  unfold accessRefusal accessWellFormed
  cases accessWidthOk n <;> cases accessInSpace n a <;> cases accessAligned n a <;> simp

theorem accessWellFormed_iff (n a : Nat) :
    accessWellFormed n a = true ↔ (n = 1 ∨ n = 2 ∨ n = 4) ∧ a % n = 0 ∧ a + n ≤ 0x400 := by
  simp [accessWellFormed, accessWidthOk, accessAligned, accessInSpace, and_assoc, or_assoc]

/-! ## Reads -/

@[simp] theorem hostBytes_length (s : State) (n : Nat) : ∀ a, (s.hostBytes a n).length = n := by
  induction n with
  | zero => intro a; rfl
  | succ n ih => intro a; simp [State.hostBytes, ih]

theorem hostBytes_getD (s : State) (n : Nat) :
    ∀ a k : Nat, k < n → (s.hostBytes a n).getD k 0 = s.hostByte (a + k) := by
  induction n with
  | zero => intro a k h; omega
  | succ n ih =>
    intro a k h
    cases k with
    | zero => simp [State.hostBytes]
    | succ k =>
      rw [State.hostBytes, List.getD_cons_succ, ih (a + 1) k (by omega)]
      congr 1; omega

theorem hostBytes_congr {s t : State} (h : ∀ a, s.hostByte a = t.hostByte a) (n : Nat) :
    ∀ a, s.hostBytes a n = t.hostBytes a n := by
  induction n with
  | zero => intro a; rfl
  | succ n ih => intro a; simp [State.hostBytes, ih, h]

/-- What HOST reads does not depend on what it does next. -/
theorem hostValue_queue (s : State) (q : List HostAct) (n a : Nat) :
    State.hostValue { s with hostQueue := q } n a = s.hostValue n a := by
  unfold State.hostValue
  rw [hostBytes_congr (t := s)]
  intro a; rfl

theorem hostValue_toNat (s : State) (n a : Nat) (h : n ≤ 4) :
    (s.hostValue n a).toNat = leNat (s.hostBytes a n) := by
  have h1 := leNat_lt (s.hostBytes a n)
  rw [hostBytes_length] at h1
  have h2 : 256 ^ n ≤ 256 ^ 4 := Nat.pow_le_pow_right (by omega) h
  simp only [State.hostValue, BitVec.toNat_ofNat]
  omega

/-- A 4-byte read of the register at word address 4 k delivers it whole. -/
theorem hostValue_reg (s : State) (k : Nat) (h : k < 64) : s.hostValue 4 (4 * k) = s.regWord k := by
  have hb : ∀ j, j < 4 → s.hostByte (4 * k + j) = (s.regWord k).extractLsb' (8 * j) 8 := by
    intro j hj
    unfold State.hostByte
    rw [if_pos (by omega), show (4 * k + j) / 4 = k by omega, show (4 * k + j) % 4 = j by omega]
  unfold State.hostValue
  simp only [State.hostBytes]
  have h0 := hb 0 (by omega)
  have h1 := hb 1 (by omega)
  have h2 := hb 2 (by omega)
  have h3 := hb 3 (by omega)
  simp only [Nat.add_zero, Nat.add_assoc, Nat.reduceAdd] at *
  rw [h0, h1, h2, h3]
  exact word_bytes _

theorem hostByte_mem (s : State) (a : Nat) (h : 0x100 ≤ a) : s.hostByte a = s.mem.read a := by
  unfold State.hostByte
  rw [if_neg (by omega)]

theorem hostByte_reg (s : State) (a : Nat) (h : a < 0x100) :
    s.hostByte a = (s.regWord (a / 4)).extractLsb' (8 * (a % 4)) 8 := if_pos h

/-! ## Writes -/

/-- Byte j of a register after a write of `n` bytes at its byte k. -/
theorem mergeBytes_byte (w v : Word) (k n j : Nat) (hk : k + n ≤ 4) (hj : j < 4) :
    (mergeBytes w k n v).extractLsb' (8 * j) 8 =
      if k ≤ j ∧ j < k + n then BitVec.ofNat 8 (v.toNat / 256 ^ (j - k))
      else w.extractLsb' (8 * j) 8 := by
  have ht : ((leBytes 4 w.toNat).take k).length = k := by simp; omega
  have hb : ((leBytes 4 w.toNat).take k ++ leBytes n v.toNat).length = k + n := by
    rw [List.length_append, ht, leBytes_length]
  have hl : ((leBytes 4 w.toNat).take k ++ leBytes n v.toNat ++
      (leBytes 4 w.toNat).drop (k + n)).length = 4 := by
    rw [List.length_append, hb, List.length_drop, leBytes_length]; omega
  rw [word_byte]
  have hlt := leNat_lt ((leBytes 4 w.toNat).take k ++ leBytes n v.toNat ++
    (leBytes 4 w.toNat).drop (k + n))
  rw [hl] at hlt
  have e : (mergeBytes w k n v).toNat = leNat ((leBytes 4 w.toNat).take k ++ leBytes n v.toNat ++
      (leBytes 4 w.toNat).drop (k + n)) := by
    rw [mergeBytes, BitVec.toNat_ofNat]; omega
  have h8 : BitVec.ofNat 8 ((mergeBytes w k n v).toNat / 256 ^ j) =
      BitVec.ofNat 8 (((mergeBytes w k n v).toNat / 256 ^ j) % 256) := by
    apply BitVec.eq_of_toNat_eq; simp
  rw [h8, e, leNat_digit _ j (by omega)]
  simp only [BitVec.ofNat_toNat, BitVec.setWidth_eq]
  split
  · rename_i h
    rw [List.getD_append _ _ _ _ (by omega), List.getD_append_right _ _ _ _ (by omega), ht,
      leBytes_getD _ _ _ (by omega)]
  · rename_i h
    rw [word_byte, ← leBytes_getD 4 _ _ hj]
    by_cases hjk : j < k
    · rw [List.getD_append _ _ _ _ (by omega), List.getD_append _ _ _ _ (by omega)]
      simp [List.getD_eq_getElem?_getD, hjk]
    · rw [List.getD_append_right _ _ _ _ (by omega), hb]
      simp only [List.getD_eq_getElem?_getD, List.getElem?_drop]
      rw [show k + n + (j - (k + n)) = j by omega]

/-- Everything a HOST write that issues no command can do: it writes ARG, CFG, KEY1 or the memory, or
nothing. -/
theorem hostStore_cases (s : State) (n a : Nat) (v : Word) :
    (a / 4 = 1 ∧ s.hostStore n a v = { s with arg := mergeBytes s.arg (a % 4) n v }) ∨
    (a / 4 = 5 ∧ s.hostStore n a v =
      { s with cfg := (mergeBytes (s.cfg.setWidth 32) (a % 4) n v).setWidth 5 }) ∨
    (a / 4 = 6 ∧ s.hostStore n a v =
      { s with key1 := (mergeBytes (s.key1.setWidth 32) (a % 4) n v).setWidth 8 }) ∨
    (a < 0x100 ∧ a / 4 ≠ 1 ∧ a / 4 ≠ 5 ∧ a / 4 ≠ 6 ∧ s.hostStore n a v = s) ∨
    (0x100 ≤ a ∧ s.hostStore n a v = { s with mem := s.mem.writeBytes a (leBytes n v.toNat) }) := by
  unfold State.hostStore
  by_cases ha : a < 0x100
  · rw [if_pos ha]
    split
    · exact .inl ⟨‹_›, rfl⟩
    · exact .inr (.inl ⟨‹_›, rfl⟩)
    · exact .inr (.inr (.inl ⟨‹_›, rfl⟩))
    · exact .inr (.inr (.inr (.inl ⟨ha, ‹_›, ‹_›, ‹_›, rfl⟩)))
  · rw [if_neg ha]
    exact .inr (.inr (.inr (.inr ⟨by omega, rfl⟩)))

/-- Everything a HOST read can do: HOST's last read, and a draw when the value is unspecified. -/
theorem hostRead_cases (s : State) (n a : Nat) :
    (s.status.busy = true ∧ busyUnspecified a = true ∧ s.hostRead n a =
      { s with
        hostData := BitVec.ofNat 32 ((busyRead s.draws).toNat % 256 ^ n)
        draws := s.draws + 1 }) ∨
    ((s.status.busy = false ∨ busyUnspecified a = false) ∧
      s.hostRead n a = { s with hostData := s.hostValue n a }) := by
  unfold State.hostRead
  cases hb : s.status.busy <;> cases hu : busyUnspecified a <;> simp

/-! ## The step of each act -/

theorem step_nil {s : State} (h : s.hostQueue = []) : step s = .next s.seqStep := by
  simp [step, runStep, h]

theorem step_write {s : State} {rest : List HostAct} {n a : Nat} {v : Word}
    (h : s.hostQueue = .write n a v :: rest) (hw : accessWellFormed n a = true) :
    step s = hostWrite n a v { s with hostQueue := rest } := by
  simp [step, runStep, h, hostAct, (accessRefusal_none_iff n a).2 hw]

theorem step_read {s : State} {rest : List HostAct} {n a : Nat}
    (h : s.hostQueue = .read n a :: rest) (hw : accessWellFormed n a = true) :
    step s = .next ({ s with hostQueue := rest }.hostRead n a) := by
  simp [step, runStep, h, hostAct, (accessRefusal_none_iff n a).2 hw]

theorem step_poll {s : State} {rest : List HostAct} (h : s.hostQueue = .poll :: rest) :
    step s = if s.status.busy then .next s.seqStep
      else .next ({ s with hostQueue := rest }.hostRead 4 0x00C) := by
  simp [step, runStep, h, hostAct]

theorem step_wait {s : State} {rest : List HostAct} (h : s.hostQueue = .wait :: rest) :
    step s = .next { s with hostQueue := rest }.seqStep := by
  simp [step, runStep, h, hostAct]

theorem step_reset {s : State} {rest : List HostAct} (h : s.hostQueue = .reset :: rest) :
    step s = .next { s with hostQueue := rest }.resetInput := by
  simp [step, runStep, h, hostAct]

/-- Everything a step that gives a next state can be. -/
theorem step_cases {s t : State} (h : step s = .next t) :
    (s.hostQueue = [] ∧ t = s.seqStep) ∨
    ∃ act rest, s.hostQueue = act :: rest ∧
      ((∃ n a v, act = .write n a v ∧ accessWellFormed n a = true ∧
          hostWrite n a v { s with hostQueue := rest } = .next t) ∨
        (∃ n a, act = .read n a ∧ accessWellFormed n a = true ∧
          t = { s with hostQueue := rest }.hostRead n a) ∨
        (act = .poll ∧ s.status.busy = true ∧ t = s.seqStep) ∨
        (act = .poll ∧ s.status.busy = false ∧
          t = { s with hostQueue := rest }.hostRead 4 0x00C) ∨
        (act = .wait ∧ t = { s with hostQueue := rest }.seqStep) ∨
        (act = .reset ∧ t = { s with hostQueue := rest }.resetInput)) := by
  unfold step runStep at h
  cases hq : s.hostQueue with
  | nil =>
    rw [hq] at h
    exact .inl ⟨rfl, by simpa using h.symm⟩
  | cons act rest =>
    rw [hq] at h
    refine .inr ⟨act, rest, rfl, ?_⟩
    cases act with
    | write n a v =>
      simp only [hostAct] at h
      split at h
      · cases h
      · rename_i hr
        exact .inl ⟨n, a, v, rfl, (accessRefusal_none_iff n a).1 hr, h⟩
    | read n a =>
      simp only [hostAct] at h
      split at h
      · cases h
      · rename_i hr
        exact .inr (.inl ⟨n, a, rfl, (accessRefusal_none_iff n a).1 hr, by simpa using h.symm⟩)
    | poll =>
      simp only [hostAct] at h
      split at h
      · rename_i hb
        exact .inr (.inr (.inl ⟨rfl, hb, by simpa using h.symm⟩))
      · rename_i hb
        exact .inr (.inr (.inr (.inl ⟨rfl, by simpa using hb, by simpa using h.symm⟩)))
    | wait => exact .inr (.inr (.inr (.inr (.inl ⟨rfl, by simpa [hostAct] using h.symm⟩))))
    | reset => exact .inr (.inr (.inr (.inr (.inr ⟨rfl, by simpa [hostAct] using h.symm⟩))))

end Sys2Proof.Machine
end

