-- ==== Sys2Proof/Laws/Codec.lean ====
section
/-! SUPPORT. The laws of the codecs: what each field function can give, when a record encodes and
decodes, and what the byte-laying operations leave in a record. -/

namespace Sys2Proof.Machine

open Sys2Proof.Config

/-! ## Decimal bytes -/

theorem bcd2_toNat (n : Nat) (h : n ≤ 99) : (bcd2 n).toNat = 16 * (n / 10) + n % 10 := by
  have : ∀ n : Fin 100, (bcd2 n.val).toNat = 16 * (n.val / 10) + n.val % 10 := by decide
  exact this ⟨n, by omega⟩

theorem hiNibble_eq (b : Byte) : hiNibble b = b.toNat / 16 := by
  have := b.isLt
  simp [hiNibble, BitVec.extractLsb'_toNat, Nat.shiftRight_eq_div_pow]; omega

theorem loNibble_eq (b : Byte) : loNibble b = b.toNat % 16 := by
  simp [loNibble, BitVec.extractLsb'_toNat]

/-- A two-digit byte reads back as its number, and both its nibbles are digits. -/
theorem bcdValue_bcd2 (n : Nat) (h : n ≤ 99) : bcdValue (bcd2 n) = n := by
  rw [bcdValue, hiNibble_eq, loNibble_eq, bcd2_toNat n h]; omega

theorem bcdOk_bcd2 (n : Nat) (h : n ≤ 99) : bcdOk (bcd2 n) = true := by
  rw [bcdOk, hiNibble_eq, loNibble_eq, bcd2_toNat n h]
  simp only [Bool.and_eq_true, decide_eq_true_eq]
  omega

/-- A byte is the two digits of a number below 100 exactly when it is not 0xFF-like: no two-digit byte
is the empty marker. -/
theorem bcd2_ne_emptyMarker (n : Nat) (h : n ≤ 99) : bcd2 n ≠ emptyMarker := by
  intro he
  have := congrArg BitVec.toNat he
  rw [bcd2_toNat n h] at this
  simp [emptyMarker] at this
  omega

theorem bcdValue_ofNat (n : Nat) :
    bcdValue (BitVec.ofNat 8 n) = n % 16 + 10 * (n / 16 % 16) := by
  simp [bcdValue, hiNibble_eq, loNibble_eq]; omega

theorem bcdOk_ofNat (n : Nat) :
    bcdOk (BitVec.ofNat 8 n) = (decide (n % 16 ≤ 9) && decide (n / 16 % 16 ≤ 9)) := by
  have h1 : n % 256 / 16 = n / 16 % 16 := by omega
  simp [bcdOk, hiNibble_eq, loNibble_eq, h1, Bool.and_comm]

/-! ## What each field function can give -/

theorem freqEnc_cases (cfg : BitVec 5) (f : Nat) :
    (freqEncodable cfg f = true ∧ ∃ b0 b1 b2 b3, freqEnc cfg f = .ok [b0, b1, b2, b3] ∧
      b3 ≠ emptyMarker) ∨
    (freqEncodable cfg f = false ∧ freqEnc cfg f = .error .encodingError) := by
  unfold freqEncodable freqEnc freqEncA freqEncB
  cases cfgFreqSel cfg
  · by_cases h : f < 10000000 ∨ f > 99999999
    · right
      simp only [Bool.false_eq_true, if_false, if_pos h, Bool.false_or, and_true]
      simp; omega
    · left
      simp only [Bool.false_eq_true, if_false, if_neg h, Bool.false_or]
      refine ⟨by simp; omega, _, _, _, _, rfl, bcd2_ne_emptyMarker _ (by omega)⟩
  · by_cases h : f / 100 > 999999
    · right
      simp only [if_true, if_pos h, Bool.true_or, Bool.and_true, and_true]
      simp; omega
    · left
      simp only [if_true, if_neg h, Bool.true_or, Bool.and_true]
      refine ⟨by simp; omega, _, _, _, _, rfl, bcd2_ne_emptyMarker _ (by omega)⟩

theorem stepFlag_cases (f : Nat) :
    ((f % 250 == 0) = true ∧ ∃ b, stepFlag f = .ok b) ∨
    ((f % 250 == 0) = false ∧ stepFlag f = .error .encodingError) := by
  have hd : f % 100000 % 250 = f % 250 := by omega
  unfold stepFlag
  split
  · left; exact ⟨by simp; omega, _, rfl⟩
  · split
    · left; exact ⟨by simp; omega, _, rfl⟩
    · split
      · left; exact ⟨by simp; omega, _, rfl⟩
      · split
        · left; exact ⟨by simp; omega, _, rfl⟩
        · right; exact ⟨by simp; omega, rfl⟩

theorem toneEnc_cases (p : Params) (cfg : BitVec 5) (t : Nat) :
    (toneEncodable p cfg t = true ∧ ∃ b0 b1, toneEnc p cfg t = .ok [b0, b1]) ∨
    (toneEncodable p cfg t = false ∧ toneEnc p cfg t = .error .encodingError) := by
  unfold toneEncodable toneEnc toneEncA toneEncB
  cases cfgToneSel cfg
  · simp only [Bool.false_eq_true, if_false]
    by_cases h : t = 0
    · left; exact ⟨by simp [h], _, _, by rw [if_pos h]; rfl⟩
    · rw [if_neg h]
      have h0 : (t == 0) = false := by simpa using h
      rw [h0, Bool.false_or]
      cases hf : p.toneTableA.find? fun e => e.tone.toNat == t with
      | some e =>
        left
        refine ⟨?_, e.p, e.q, rfl⟩
        exact List.any_eq_true.2 ⟨e, List.mem_of_find?_eq_some hf,
          List.find?_some (p := fun e : ToneEntry => e.tone.toNat == t) hf⟩
      | none =>
        right
        refine ⟨?_, rfl⟩
        rw [List.find?_eq_none] at hf
        rw [List.any_eq_false]
        exact hf
  · simp only [if_true]
    by_cases h : t > 0xFFFF
    · right; exact ⟨by simp; omega, by rw [if_pos h]⟩
    · left; exact ⟨by simp; omega, _, _, by rw [if_neg h]; rfl⟩

theorem freqDec_cases (cfg : BitVec 5) (b : List Byte) :
    (freqDecodable cfg b = true ∧ ∃ f, freqDec cfg b = .ok f) ∨
    (freqDecodable cfg b = false ∧ freqDec cfg b = .error .decodeError) := by
  have hb : b.all bcdOk =
      b.all fun x => decide (x.toNat / 16 ≤ 9) && decide (x.toNat % 16 ≤ 9) := by
    congr 1; funext x
    rw [bcdOk, hiNibble_eq, loNibble_eq]
  unfold freqDecodable freqDec freqDecA
  cases cfgFreqSel cfg
  · rw [← hb]
    cases b.all bcdOk <;> simp
  · simp

theorem toneDec_cases (p : Params) (cfg : BitVec 5) (b : List Byte) :
    (toneDecodable p cfg b = true ∧ ∃ t, toneDec p cfg b = .ok t) ∨
    (toneDecodable p cfg b = false ∧ toneDec p cfg b = .error .decodeError) := by
  unfold toneDecodable toneDec toneDecA
  cases cfgToneSel cfg
  · simp only [Bool.false_eq_true, if_false, Bool.false_or]
    by_cases h : b = p.noToneA
    · left; exact ⟨by simp [h], 0, by rw [if_pos h]⟩
    · rw [if_neg h]
      have h0 : (b == p.noToneA) = false := by simpa using h
      rw [h0, Bool.false_or]
      cases hf : p.toneTableA.find? fun e => e.bytes == b with
      | some e =>
        left
        refine ⟨?_, _, rfl⟩
        exact List.any_eq_true.2 ⟨e, List.mem_of_find?_eq_some hf,
          List.find?_some (p := fun e : ToneEntry => e.bytes == b) hf⟩
      | none =>
        right
        refine ⟨?_, rfl⟩
        rw [List.find?_eq_none] at hf
        rw [List.any_eq_false]
        exact hf
  · simp

theorem flagsDec_cases (cfg : BitVec 5) (b : Byte) :
    (flagsDecodable cfg b = true ∧ ∃ g, flagsDec cfg b = .ok g) ∨
    (flagsDecodable cfg b = false ∧ flagsDec cfg b = .error .decodeError) := by
  unfold flagsDecodable flagsDec flagsDecA
  rw [loNibble_eq]
  cases cfgFlagSel cfg
  · simp only [Bool.false_eq_true, if_false, Bool.false_or]
    by_cases h : b.toNat % 16 = 0xC
    · left; exact ⟨by simp [h], _, by rw [if_pos h]⟩
    · rw [if_neg h]
      by_cases h' : b.toNat % 16 = 0xD
      · left; exact ⟨by simp [h'], _, by rw [if_pos h']⟩
      · right; exact ⟨by simp [h, h'], by rw [if_neg h']⟩
  · simp

/-! ## Records -/

/-- When a record encodes: exactly when no check of R98's order fails, and else the error names the
first that does. -/
theorem encodeRecord_cases (p : Params) (cfg : BitVec 5) (e : TblEntry) (n : Nat) :
    (firstEncodeError p cfg e = none ∧ ∃ r, encodeRecord p cfg e n = .ok r) ∨
    (∃ fld, firstEncodeError p cfg e = some fld ∧
      encodeRecord p cfg e n = .error (.encodingError, fld)) := by
  unfold firstEncodeError encodeRecord
  cases e.rxv
  · simp
  simp only [if_true]
  unfold encodeChecks encodeDuplex encodeReceiveOnly encodeFreqStep
  rcases freqEnc_cases cfg e.rxf.toNat with ⟨h1, _, _, _, _, e1, _⟩ | ⟨h1, e1⟩ <;>
    rw [h1, e1]
  · rcases stepFlag_cases e.rxf.toNat with ⟨h2, _, e2⟩ | ⟨h2, e2⟩ <;> rw [h2, e2]
    · cases e.txv
      · rcases toneEnc_cases p cfg e.rxt.toNat with ⟨h3, _, _, e3⟩ | ⟨h3, e3⟩ <;> rw [h3, e3] <;>
          simp [inField, bind, Except.bind, pure, Except.pure]
      · rcases freqEnc_cases cfg e.txf.toNat with ⟨h4, _, _, _, _, e4, _⟩ | ⟨h4, e4⟩ <;>
          rw [h4, e4]
        · rcases stepFlag_cases e.txf.toNat with ⟨h5, _, e5⟩ | ⟨h5, e5⟩ <;> rw [h5, e5]
          · rcases toneEnc_cases p cfg e.rxt.toNat with ⟨h3, _, _, e3⟩ | ⟨h3, e3⟩ <;> rw [h3, e3]
            · rcases toneEnc_cases p cfg e.txt.toNat with ⟨h6, _, _, e6⟩ | ⟨h6, e6⟩ <;>
                rw [h6, e6] <;> simp [inField, bind, Except.bind, pure, Except.pure]
            · simp [inField, bind, Except.bind, pure, Except.pure]
          · simp [inField, bind, Except.bind, pure, Except.pure]
        · simp [inField, bind, Except.bind, pure, Except.pure]
    · cases e.txv <;> simp [inField, bind, Except.bind]
  · cases e.txv <;> simp [inField, bind, Except.bind]

/-- When a record decodes: exactly when no check of R102's order fails, and else the error names the
first that does. -/
theorem decodeRecord_cases (p : Params) (cfg : BitVec 5) (r : List Byte) :
    (firstDecodeError p cfg r = none ∧ ∃ e, decodeRecord p cfg r = .ok e) ∨
    (∃ fld, firstDecodeError p cfg r = some fld ∧
      decodeRecord p cfg r = .error (.decodeError, fld)) := by
  unfold firstDecodeError decodeRecord
  cases recordEmpty r
  swap
  · simp
  simp only [Bool.false_eq_true, if_false]
  unfold decodeChecks decodeReceiveOnly decodeDuplex
  rcases freqDec_cases cfg (recSlice r 2 4) with ⟨h1, _, e1⟩ | ⟨h1, e1⟩ <;> rw [h1, e1]
  · cases recordTxAbsent r
    · rcases freqDec_cases cfg (recSlice r 6 4) with ⟨h2, _, e2⟩ | ⟨h2, e2⟩ <;> rw [h2, e2]
      · rcases toneDec_cases p cfg (recSlice r 12 2) with ⟨h3, _, e3⟩ | ⟨h3, e3⟩ <;> rw [h3, e3]
        · rcases toneDec_cases p cfg (recSlice r 14 2) with ⟨h4, _, e4⟩ | ⟨h4, e4⟩ <;> rw [h4, e4]
          · rcases flagsDec_cases cfg (recByte r 17) with ⟨h5, _, e5⟩ | ⟨h5, e5⟩ <;>
              rw [h5, e5] <;> simp [inField, bind, Except.bind, pure, Except.pure]
          · simp [inField, bind, Except.bind]
        · simp [inField, bind, Except.bind]
      · simp [inField, bind, Except.bind]
    · rcases toneDec_cases p cfg (recSlice r 12 2) with ⟨h3, _, e3⟩ | ⟨h3, e3⟩ <;> rw [h3, e3]
      · rcases flagsDec_cases cfg (recByte r 17) with ⟨h5, _, e5⟩ | ⟨h5, e5⟩ <;>
          rw [h5, e5] <;> simp [inField, bind, Except.bind, pure, Except.pure]
      · simp [inField, bind, Except.bind]
  · cases recordTxAbsent r <;> simp [inField, bind, Except.bind]

/-! ## Laying bytes into a record -/

@[simp] theorem putBytes_length (bs : List Byte) :
    ∀ (r : List Byte) (o : Nat), (putBytes r o bs).length = r.length := by
  induction bs with
  | nil => intro r o; rfl
  | cons b bs ih => intro r o; simp [putBytes, ih]

@[simp] theorem putPairs_length (ps : List (Nat × Byte)) :
    ∀ r : List Byte, (putPairs r ps).length = r.length := by
  induction ps with
  | nil => intro r; rfl
  | cons ov ps ih => intro r; obtain ⟨o, v⟩ := ov; simp [putPairs, ih]

theorem getD_set (r : List Byte) (o k : Nat) (b : Byte) (h : o < r.length) :
    (r.set o b).getD k 0 = if k = o then b else r.getD k 0 := by
  by_cases hk : k = o
  · subst hk
    simp [List.getD_eq_getElem?_getD, h]
  · rw [if_neg hk]
    simp only [List.getD_eq_getElem?_getD]
    rw [List.getElem?_set_ne (Ne.symm hk)]

theorem putBytes_getD (bs : List Byte) :
    ∀ (r : List Byte) (o k : Nat), o + bs.length ≤ r.length →
      (putBytes r o bs).getD k 0 =
        if o ≤ k ∧ k < o + bs.length then bs.getD (k - o) 0 else r.getD k 0 := by
  induction bs with
  | nil =>
    intro r o k _
    rw [putBytes, if_neg (by simp)]
  | cons b bs ih =>
    intro r o k h
    simp only [List.length_cons] at h ⊢
    rw [putBytes, ih _ _ _ (by rw [List.length_set]; omega), getD_set _ _ _ _ (by omega)]
    by_cases h1 : o + 1 ≤ k ∧ k < o + 1 + bs.length
    · rw [if_pos h1, if_pos (by omega), show k - o = (k - (o + 1)) + 1 by omega,
        List.getD_cons_succ]
    · rw [if_neg h1]
      by_cases h2 : k = o
      · subst h2
        rw [if_pos rfl, if_pos (by omega)]; simp
      · rw [if_neg h2, if_neg (by omega)]

/-- A byte of a record that pairs with distinct offsets were put into. -/
theorem putPairs_getD (ps : List (Nat × Byte)) :
    ∀ (r : List Byte) (k : Nat), (ps.map Prod.fst).Nodup → (∀ ov ∈ ps, ov.1 < r.length) →
      (putPairs r ps).getD k 0 =
        (((ps.find? fun ov => ov.1 == k).map Prod.snd).getD (r.getD k 0)) := by
  induction ps with
  | nil => intro r k _ _; rfl
  | cons ov ps ih =>
    intro r k hn hl
    obtain ⟨o, v⟩ := ov
    simp only [List.map_cons, List.nodup_cons] at hn
    have ho : o < r.length := hl (o, v) (by simp)
    rw [putPairs, ih _ _ hn.2 (by
      intro x hx; rw [List.length_set]; exact hl x (by simp [hx])), getD_set _ _ _ _ ho]
    by_cases hk : o = k
    · subst hk
      rw [if_pos rfl]
      have : ps.find? (fun ov => ov.1 == o) = none := by
        rw [List.find?_eq_none]
        intro x hx he
        exact hn.1 (List.mem_map.2 ⟨x, hx, by simpa using he⟩)
      rw [this, List.find?_cons_of_pos (by simp)]
      rfl
    · rw [if_neg (Ne.symm hk), List.find?_cons_of_neg (by simpa using hk)]

/-! ## The sixteen slots -/

theorem mem_allSlots (i : SlotIx) : i ∈ allSlots := by
  revert i; decide

/-- All slots succeed, or the first that does not stops the loop. -/
theorem forSlots_cases {α : Type} (f : SlotIx → Except (ErrorKind × RecField) α)
    (l : List SlotIx) :
    (∃ as, forSlots f l = .ok as ∧ l.map f = as.map Except.ok) ∨
    (∃ pre i post kf, l = pre ++ i :: post ∧ (∀ j ∈ pre, ∃ a, f j = .ok a) ∧
      f i = .error kf ∧ forSlots f l = .error (i, kf)) := by
  induction l with
  | nil => exact .inl ⟨[], rfl, rfl⟩
  | cons i is ih =>
    unfold forSlots
    cases hi : f i with
    | error kf => exact .inr ⟨[], i, is, kf, rfl, by simp, hi, rfl⟩
    | ok a =>
      rcases ih with ⟨as, h1, h2⟩ | ⟨pre, j, post, kf, h1, h2, h3, h4⟩
      · left
        exact ⟨a :: as, by rw [h1], by simp [hi, h2]⟩
      · right
        refine ⟨i :: pre, j, post, kf, by rw [h1]; rfl, ?_, h3, by rw [h4]⟩
        intro k hk
        rcases List.mem_cons.1 hk with rfl | hk
        · exact ⟨a, hi⟩
        · exact h2 k hk

/-! ## The end of a codec command -/

theorem finishField_ok (s : State) (ph : ErrPhase) (v : Word) :
    s.finishField ph (.ok v) = s.succeed v := rfl

theorem finishField_error (s : State) (ph : ErrPhase) (k : ErrorKind) :
    s.finishField ph (.error k) = s.endWithError (fieldFailure ph k) := rfl

end Sys2Proof.Machine
end

