-- ==== Sys2Proof/Laws/Sequencer.lean ====
section
/-! SUPPORT. The laws of the sequencer: what each shared operation of its steps can do, how several steps
compose, and the sending of a whole frame. -/

namespace Sys2Proof.Machine

open Sys2Proof.Config

/-! ## Several steps -/

theorem steps_zero (s : State) : steps 0 s = .next s := rfl

/-- One step and then the others. -/
theorem steps_unfold (k : Nat) (s : State) :
    (∃ t, step s = .next t ∧ steps (k + 1) s = steps k t) ∨
    ∃ r, step s = .refused r ∧ steps (k + 1) s = .refused r := by
  unfold steps
  simp only [Host.Core.run]
  have hc : Sys2Proof.core.step s = step s := rfl
  rw [hc]
  cases step s with
  | next t => exact .inl ⟨t, rfl, rfl⟩
  | fault f => exact nomatch f
  | refused r => exact .inr ⟨r, rfl, rfl⟩

theorem steps_succ {s t : State} (k : Nat) (h : step s = .next t) : steps (k + 1) s = steps k t := by
  rcases steps_unfold k s with ⟨u, h1, h2⟩ | ⟨r, h1, _⟩
  · rw [h] at h1
    cases h1
    exact h2
  · rw [h] at h1; cases h1

theorem steps_add {s t : State} (j k : Nat) (h : steps j s = .next t) :
    steps (j + k) s = steps k t := by
  induction j generalizing s with
  | zero =>
    have : s = t := by simpa [steps_zero] using h
    rw [this, Nat.zero_add]
  | succ j ih =>
    rcases steps_unfold j s with ⟨u, h1, h2⟩ | ⟨r, _, h2⟩
    · rw [show j + 1 + k = j + k + 1 by omega, steps_succ _ h1]
      exact ih (h2 ▸ h)
    · rw [h2] at h; cases h

/-- The step of a running session with nothing pending at the host port is SEQ's. -/
theorem step_session {s : State} (hq : s.hostQueue = []) (hb : s.status.busy = true) :
    step s = .next (s.seqPhase s.seq.phase) := by
  rw [step_nil hq, State.seqStep, if_pos hb]

theorem seqStep_idle {s : State} (hb : s.status.busy = false) : s.seqStep = s := by
  rw [State.seqStep, if_neg (by simp [hb])]

/-! ## Sending -/

/-- A frame depends on the parameters, the session key, the slot, the buffers and the mask alone. -/
theorem frame_congr {s t : State} (h1 : t.params = s.params) (h2 : t.k1s = s.k1s)
    (h3 : t.seq.slot = s.seq.slot) (h4 : t.mem = s.mem) (h5 : t.actMask = s.actMask)
    (p : SeqPhase) : t.frame p = s.frame p := by
  have hw : ∀ g, t.writeBytesOf g = s.writeBytesOf g := by
    intro g; cases g <;> simp [State.writeBytesOf, State.par, h1, h3, h4, h5]
  have ha : ∀ g, t.writeAddrOf g = s.writeAddrOf g := by
    intro g; cases g <;> simp [State.writeAddrOf, State.par, h1, h3]
  cases p <;> simp [State.frame, State.par, h1, h2, h3, hw, ha]

theorem afterFrame_congr {s t : State} (h1 : t.params = s.params) (p : SeqPhase) :
    t.afterFrame p = s.afterFrame p := by
  cases p <;> simp [State.afterFrame, State.afterMark, State.par, h1]

/-- Everything the sending of a byte can do. -/
theorem sendFrame_cases (s : State) (p : SeqPhase) :
    (∃ b, (s.frame p)[s.seq.sent]? = some b ∧ s.seq.sent + 1 < (s.frame p).length ∧
      s.sendFrame p =
        { s with
          trace := s.trace ++ [.tx b]
          seq := { s.seq with sent := s.seq.sent + 1 } }) ∨
    (∃ b, (s.frame p)[s.seq.sent]? = some b ∧ s.seq.sent + 1 = (s.frame p).length ∧
      s.sendFrame p =
        { s with
          trace := s.trace ++ [.tx b]
          seq := { s.seq with phase := s.afterFrame p, sent := 0 } }) ∨
    ((s.frame p).length ≤ s.seq.sent ∧
      s.sendFrame p = { s with seq := { s.seq with phase := s.afterFrame p, sent := 0 } }) := by
  unfold State.sendFrame
  cases h : (s.frame p)[s.seq.sent]? with
  | some b =>
    have hlt : s.seq.sent < (s.frame p).length := by
      by_contra hc
      rw [List.getElem?_eq_none (by omega)] at h
      cases h
    by_cases hl : s.seq.sent + 1 < (s.frame p).length
    · exact .inl ⟨b, rfl, hl, by simp only [if_pos hl]; rfl⟩
    · exact .inr (.inl ⟨b, rfl, by omega, by simp only [if_neg hl]; rfl⟩)
  | none =>
    rw [List.getElem?_eq_none_iff] at h
    exact .inr (.inr ⟨h, rfl⟩)

/-- Everything SSTATE <- Active can do (R131). -/
theorem activate_cases (s : State) :
    (s.status.sstate = .keyExchanged ∧ s.activate = s.setSession .active) ∨
    (s.status.sstate ≠ .keyExchanged ∧ s.activate = s) := by
  unfold State.activate
  by_cases h : s.status.sstate = .keyExchanged
  · exact .inl ⟨h, if_pos h⟩
  · exact .inr ⟨h, if_neg h⟩

/-- The rest of a frame is sent one byte a step, once SEQ's step is the sending of it. -/
theorem steps_sendRest (p : SeqPhase)
    (hp : ∀ t : State, t.seq.phase = p → t.status.sstate ≠ .keyExchanged →
      t.seqPhase p = t.sendFrame p) :
    ∀ (k : Nat) (s : State), s.hostQueue = [] → s.status.busy = true → s.seq.phase = p →
      s.status.sstate ≠ .keyExchanged → s.seq.sent + k + 1 = (s.frame p).length →
      steps (k + 1) s = .next
        { s with
          trace := s.trace ++ ((s.frame p).drop s.seq.sent).map Event.tx
          seq := { s.seq with phase := s.afterFrame p, sent := 0 } } := by
  intro k
  induction k with
  | zero =>
    intro s hq hb hph hk hl
    rw [steps_succ 0 (step_session hq hb), steps_zero, hph, hp s hph hk]
    have hlt : s.seq.sent < (s.frame p).length := by omega
    rcases sendFrame_cases s p with ⟨b, _, h2, _⟩ | ⟨b, h1, _, h3⟩ | ⟨h1, _⟩
    · omega
    · rw [h3]
      have : (s.frame p).drop s.seq.sent = [b] := by
        rw [List.drop_eq_getElem_cons hlt, List.drop_eq_nil_of_le (by omega)]
        rw [List.getElem?_eq_getElem hlt] at h1
        simpa using h1
      rw [this]; rfl
    · omega
  | succ k ih =>
    intro s hq hb hph hk hl
    have hlt : s.seq.sent < (s.frame p).length := by omega
    rcases sendFrame_cases s p with ⟨b, h1, _, h3⟩ | ⟨b, _, h2, _⟩ | ⟨h1, _⟩
    · rw [steps_succ (k + 1) (step_session hq hb), hph, hp s hph hk, h3]
      have hf : ∀ q, State.frame { s with
          trace := s.trace ++ [.tx b], seq := { s.seq with sent := s.seq.sent + 1 } } q =
          s.frame q := fun q => frame_congr rfl rfl rfl rfl rfl q
      refine (ih { s with
          trace := s.trace ++ [.tx b]
          seq := { s.seq with sent := s.seq.sent + 1 } } hq hb hph hk
        (by rw [hf]; simp only; omega)).trans ?_
      rw [hf]
      have hd : (s.frame p).drop s.seq.sent = b :: (s.frame p).drop (s.seq.sent + 1) := by
        rw [List.drop_eq_getElem_cons hlt]
        rw [List.getElem?_eq_getElem hlt] at h1
        rw [Option.some.inj h1]
      rw [hd]
      simp only [List.map_cons, List.append_assoc, List.cons_append, List.nil_append]
      rfl
    · omega
    · omega

/-- The phases whose step is the sending of their frame, the two descriptors after SSTATE <- Active. -/
theorem seqPhase_sends {p : SeqPhase} (hp : p.sends = true) (t : State)
    (hk : t.status.sstate ≠ .keyExchanged) : t.seqPhase p = t.sendFrame p := by
  have ha : t.activate = t := by
    rcases activate_cases t with ⟨h, _⟩ | ⟨_, h⟩
    · exact absurd h hk
    · exact h
  cases p <;> first | rfl | (simp only [State.seqPhase, ha]; done) | cases hp

/-- A whole frame goes out in as many steps as it has bytes. -/
theorem steps_sendFrame {s : State} {p : SeqPhase} (hp : p.sends = true) (hq : s.hostQueue = [])
    (hb : s.status.busy = true) (hph : s.seq.phase = p) (h0 : s.seq.sent = 0)
    (hk : s.status.sstate ≠ .keyExchanged) (hl : (s.frame p).length ≠ 0) :
    steps (s.frame p).length s = .next
      { s with
        trace := s.trace ++ (s.frame p).map Event.tx
        seq := { s.seq with phase := s.afterFrame p, sent := 0 } } := by
  obtain ⟨k, hk'⟩ : ∃ k, (s.frame p).length = k + 1 := ⟨(s.frame p).length - 1, by omega⟩
  rw [hk', steps_sendRest p (fun t _ ht => seqPhase_sends hp t ht) k s hq hb hph hk (by omega), h0]
  rfl

/-- A frame of at least two bytes that opens a session's transactions: SSTATE becomes Active with its
first byte (R131). -/
theorem steps_sendDescriptor {s : State} {p : SeqPhase} (hp : p.sends = true)
    (hd : ∀ t : State, t.seqPhase p = t.activate.sendFrame p) (hq : s.hostQueue = [])
    (hb : s.status.busy = true) (hph : s.seq.phase = p) (h0 : s.seq.sent = 0)
    (hk : s.status.sstate = .active ∨ s.status.sstate = .keyExchanged)
    (hl : 2 ≤ (s.frame p).length) :
    steps (s.frame p).length s = .next
      { s with
        trace := s.trace ++ (s.frame p).map Event.tx
        status := { s.status with sstate := .active }
        seq := { s.seq with phase := s.afterFrame p, sent := 0 } } := by
  have hf : ∀ t : State, t = { s with status := { s.status with sstate := .active } } →
      ∀ q, t.frame q = s.frame q := by
    intro t ht q; subst ht; exact frame_congr rfl rfl rfl rfl rfl q
  rcases hk with hk | hk
  · rw [steps_sendFrame hp hq hb hph h0 (by rw [hk]; simp) (by omega)]
    have : s.status = { s.status with sstate := .active } := by rw [← hk]
    rw [← this]
  · have hact : s.activate = { s with status := { s.status with sstate := .active } } := by
      rcases activate_cases s with ⟨_, h⟩ | ⟨h, _⟩
      · exact h
      · exact absurd hk h
    have h1 : s.seqPhase p =
        State.seqPhase { s with status := { s.status with sstate := .active } } p := by
      rw [hd, hact, seqPhase_sends hp _ (by simp)]
    have h2 : ∀ n, steps (n + 1) s =
        steps (n + 1) { s with status := { s.status with sstate := .active } } := by
      intro n
      have ha : step { s with status := { s.status with sstate := .active } } =
          .next (State.seqPhase { s with status := { s.status with sstate := .active } } p) := by
        rw [step_session (by exact hq) (by exact hb)]
        exact congrArg (fun x => Host.Outcome.next (State.seqPhase _ x)) hph
      have hs : step s = .next (s.seqPhase p) := by
        rw [step_session hq hb, hph]
      rw [steps_succ n ha, steps_succ n hs, h1]
    obtain ⟨n, hn⟩ : ∃ n, (s.frame p).length = n + 1 := ⟨(s.frame p).length - 1, by omega⟩
    have h3 := steps_sendFrame (s := { s with status := { s.status with sstate := .active } }) hp
      hq hb hph h0 (by simp) (by rw [hf _ rfl]; omega)
    rw [hf _ rfl, hn] at h3
    rw [hn, h2]
    exact h3

/-! ## Receiving -/

theorem checkFailure_none_iff (key : Byte) (ph : ErrPhase) (slot : Nat) (a : Option (List Byte)) :
    checkFailure key ph slot a = none ↔ ∃ bs, a = some bs ∧ recByte bs 0 ^^^ key = conf := by
  cases a with
  | none => simp [checkFailure]
  | some bs => simp [checkFailure]

/-- Everything a CHECK can do (R118, R119). -/
theorem check_cases (s : State) (key : Byte) (ph : ErrPhase) (slot : Nat) (pass : State → State) :
    (∃ bs, s.rxAnswer 1 = some bs ∧ recByte bs 0 ^^^ key = conf ∧
      s.check key ph slot pass = pass (s.afterRx 1)) ∨
    (s.rxAnswer 1 = none ∧
      s.check key ph slot pass = (s.afterRx 1).fail (timeoutFailure ph slot conf)) ∨
    (∃ bs, s.rxAnswer 1 = some bs ∧ recByte bs 0 ^^^ key ≠ conf ∧
      s.check key ph slot pass =
        (s.afterRx 1).fail (mismatchFailure ph slot (recByte bs 0 ^^^ key))) := by
  unfold State.check
  cases h : s.rxAnswer 1 with
  | none => exact .inr (.inl ⟨rfl, rfl⟩)
  | some bs =>
    by_cases hc : recByte bs 0 ^^^ key = conf
    · exact .inl ⟨bs, rfl, hc, by simp only [checkFailure, if_pos hc]⟩
    · exact .inr (.inr ⟨bs, rfl, hc, by simp only [checkFailure, if_neg hc]⟩)

/-- Everything an unchecked RX can do (R128, R130, R139). -/
theorem receive_cases (s : State) (n : Nat) (ph : ErrPhase) (slot : Nat)
    (pass : List Byte → State → State) :
    (∃ bs, s.rxAnswer n = some bs ∧ s.receive n ph slot pass = pass bs (s.afterRx n)) ∨
    (s.rxAnswer n = none ∧
      s.receive n ph slot pass = (s.afterRx n).fail (timeoutFailure ph slot 0)) := by
  unfold State.receive
  cases h : s.rxAnswer n with
  | none => exact .inr ⟨rfl, rfl⟩
  | some bs => exact .inl ⟨bs, rfl, rfl⟩

/-- A check that DEV answers rightly. -/
theorem check_pass {s : State} {d : List Byte} {q : List DevAnswer} {key : Byte}
    (h : s.devQueue = .present d :: q) (hd : d.getD 0 0 ^^^ key = conf) (ph : ErrPhase)
    (slot : Nat) (pass : State → State) :
    s.check key ph slot pass =
      pass { s with devQueue := q, trace := s.trace ++ [.rx 1 (some [d.getD 0 0])] } := by
  have ha : s.rxAnswer 1 = some [d.getD 0 0] := by
    simp [State.rxAnswer, State.devAnswer, h, answerBytes]
  have hr : s.afterRx 1 =
      { s with devQueue := q, trace := s.trace ++ [.rx 1 (some [d.getD 0 0])] } := by
    simp [State.afterRx, State.answered, h, State.emit, ha]
  rcases check_cases s key ph slot pass with ⟨bs, h1, _, h3⟩ | ⟨h1, _⟩ | ⟨bs, h1, h2, _⟩
  · rw [h3, hr]
  · rw [ha] at h1; cases h1
  · rw [ha] at h1
    cases h1
    exact absurd hd h2

/-- An unchecked RX that DEV answers with bytes. -/
theorem receive_pass {s : State} {d : List Byte} {q : List DevAnswer}
    (h : s.devQueue = .present d :: q) (n : Nat) (ph : ErrPhase) (slot : Nat)
    (pass : List Byte → State → State) :
    s.receive n ph slot pass =
      pass (answerBytes d n)
        { s with devQueue := q, trace := s.trace ++ [.rx n (some (answerBytes d n))] } := by
  have ha : s.rxAnswer n = some (answerBytes d n) := by
    simp [State.rxAnswer, State.devAnswer, h]
  have hr : s.afterRx n =
      { s with devQueue := q, trace := s.trace ++ [.rx n (some (answerBytes d n))] } := by
    simp [State.afterRx, State.answered, h, State.emit, ha]
  unfold State.receive
  rw [ha, hr]

/-- Everything the end of a slot's transaction can do (R146). -/
theorem nextSlot_cases (s : State) (p : SeqPhase) :
    (s.seq.slot < 16 ∧ s.nextSlot p =
      { s with seq := { s.seq with slot := s.seq.slot + 1, phase := p, sent := 0 } }) ∨
    (16 ≤ s.seq.slot ∧ s.nextSlot p =
      { s with
        status := { s.status with sstate := .terminated }
        seq := { s.seq with phase := .termSend, sent := 0, slot := 0 } }) := by
  unfold State.nextSlot nSlots
  by_cases h : s.seq.slot < 16
  · exact .inl ⟨h, by rw [if_pos h]; rfl⟩
  · exact .inr ⟨by omega, by rw [if_neg h]; rfl⟩

/-- Everything the step OPEN can do (R121). -/
theorem stepOpen_cases (s : State) :
    (s.openAnswer = true ∧ s.stepOpen =
      { s.answered.emit (.openLink true) with
        status := { s.status with link := true, baudHi := false } }.goto .progReq) ∨
    (s.openAnswer = false ∧ s.stepOpen =
      (s.answered.emit (.openLink false)).failUnopened
        (fieldFailure .openLink .transportUnavailable)) := by
  unfold State.stepOpen
  cases h : s.openAnswer
  · exact .inr ⟨rfl, by simp⟩
  · exact .inl ⟨rfl, by simp⟩

/-- Everything the step LISTEN can do (R123). -/
theorem stepListen_cases (s : State) :
    (∃ bs, s.rxAnswer 1 = some bs ∧ recByte bs 0 = s.par.listenCode ∧
      s.stepListen = ((s.afterRx 1).setSession .listening).goto .baud) ∨
    (s.rxAnswer 1 = none ∧
      s.stepListen = (s.afterRx 1).fail (timeoutFailure .hsListen 0 s.par.listenCode)) ∨
    (∃ bs, s.rxAnswer 1 = some bs ∧ recByte bs 0 ≠ s.par.listenCode ∧
      s.stepListen = (s.afterRx 1).fail
        { kind := .handshakeRejected,
          info := { ErrInfo.clear with
            exp := s.par.listenCode, act := recByte bs 0, phase := .hsListen } }) := by
  unfold State.stepListen
  cases h : s.rxAnswer 1 with
  | none => exact .inr (.inl ⟨rfl, rfl⟩)
  | some bs =>
    by_cases hc : recByte bs 0 = s.par.listenCode
    · exact .inl ⟨bs, rfl, hc, by simp only [if_pos hc]⟩
    · exact .inr (.inr ⟨bs, rfl, hc, by simp only [if_neg hc]⟩)

/-- Everything the termination check can do (R148, R149, R164). -/
theorem stepTermCheck_cases (s : State) :
    (checkFailure s.par.k2 .term 0 (s.rxAnswer 1) = none ∧
      s.stepTermCheck = (s.afterRx 1).goto .termClose) ∨
    (∃ f g, checkFailure s.par.k2 .term 0 (s.rxAnswer 1) = some f ∧ s.seq.error = some g ∧
      s.stepTermCheck =
        { s.afterRx 1 with status := { s.status with termFail := true } }.goto .termClose) ∨
    (∃ f, checkFailure s.par.k2 .term 0 (s.rxAnswer 1) = some f ∧ s.seq.error = none ∧
      s.stepTermCheck =
        { s.afterRx 1 with seq := { s.seq with error := some f } }.goto .termClose) := by
  unfold State.stepTermCheck
  cases h : checkFailure s.par.k2 .term 0 (s.rxAnswer 1) with
  | none => exact .inl ⟨rfl, rfl⟩
  | some f =>
    cases he : s.seq.error with
    | none => exact .inr (.inr ⟨f, rfl, rfl, rfl⟩)
    | some g => exact .inr (.inl ⟨f, g, rfl, rfl, rfl⟩)

/-- Everything CLOSE can do (R148, R149, R150). -/
theorem stepTermClose_cases (s : State) :
    (∃ f, s.seq.error = some f ∧
      s.stepTermClose = (((s.emit .close).endSession).setSession .failed).endWithError f) ∨
    (s.seq.error = none ∧ s.stepTermClose = { (s.emit .close).endSession with
      status := (s.emit .close).endSession.status.succeeded,
      seq := { (s.emit .close).endSession.seq with op := none } }) := by
  unfold State.stepTermClose
  cases h : s.seq.error with
  | none => exact .inr ⟨rfl, rfl⟩
  | some f => exact .inl ⟨f, rfl, rfl⟩

end Sys2Proof.Machine
end

