-- ==== Sys2Proof/Laws/HostQueue.lean ====
section
/-! SUPPORT. SEQ's steps and HOST's pending acts: a step of SEQ neither reads nor changes them, so a session
that HOST polls, or in which HOST waits, makes the steps of one that HOST leaves alone. -/

namespace Sys2Proof.Machine

open Sys2Proof.Config

/-- The state with other pending acts of HOST. -/
def State.withQueue (s : State) (r : List HostAct) : State := { s with hostQueue := r }

theorem answered_withQueue (s : State) (r : List HostAct) :
    (s.withQueue r).answered = s.answered.withQueue r := by
  cases h : s.devQueue <;> simp only [State.answered, State.withQueue, h]

theorem afterRx_withQueue (s : State) (r : List HostAct) (n : Nat) :
    (s.withQueue r).afterRx n = (s.afterRx n).withQueue r := by
  unfold State.afterRx
  rw [answered_withQueue]
  rfl

theorem sendFrame_withQueue (s : State) (r : List HostAct) (p : SeqPhase) :
    (s.withQueue r).sendFrame p = (s.sendFrame p).withQueue r := by
  have hf : (s.withQueue r).frame p = s.frame p := frame_congr rfl rfl rfl rfl rfl p
  unfold State.sendFrame
  rw [hf]
  show (match (s.frame p)[s.seq.sent]? with | some b => _ | none => _) = _
  cases (s.frame p)[s.seq.sent]? with
  | none => dsimp only; rw [afterFrame_congr (s := s) rfl p]; rfl
  | some b =>
    dsimp only
    by_cases h : s.seq.sent + 1 < (s.frame p).length
    · rw [if_pos (by exact h), if_pos h]; rfl
    · rw [if_neg (by exact h), if_neg h, afterFrame_congr (s := s) rfl p]; rfl

theorem check_withQueue (s : State) (r : List HostAct) (key : Byte) (ph : ErrPhase) (slot : Nat)
    (pass : State → State) (hp : ∀ t : State, pass (t.withQueue r) = (pass t).withQueue r) :
    (s.withQueue r).check key ph slot pass = (s.check key ph slot pass).withQueue r := by
  unfold State.check
  rw [show (s.withQueue r).rxAnswer 1 = s.rxAnswer 1 from rfl, afterRx_withQueue]
  cases checkFailure key ph slot (s.rxAnswer 1) with
  | none => exact hp _
  | some f => rfl

theorem receive_withQueue (s : State) (r : List HostAct) (n : Nat) (ph : ErrPhase) (slot : Nat)
    (pass : List Byte → State → State)
    (hp : ∀ d (t : State), pass d (t.withQueue r) = (pass d t).withQueue r) :
    (s.withQueue r).receive n ph slot pass = (s.receive n ph slot pass).withQueue r := by
  unfold State.receive
  rw [show (s.withQueue r).rxAnswer n = s.rxAnswer n from rfl, afterRx_withQueue]
  cases s.rxAnswer n with
  | none => rfl
  | some d => exact hp d _

theorem activate_withQueue (s : State) (r : List HostAct) :
    (s.withQueue r).activate = s.activate.withQueue r := by
  unfold State.activate
  by_cases h : s.status.sstate = .keyExchanged
  · rw [if_pos (by exact h), if_pos h]; rfl
  · rw [if_neg (by exact h), if_neg h]

theorem firstTransaction_withQueue (s : State) (r : List HostAct) :
    (s.withQueue r).firstTransaction = s.firstTransaction.withQueue r := by
  unfold State.firstTransaction
  by_cases h : s.seq.op = some Instr.rdall.op
  · rw [if_pos (by exact h), if_pos h]; rfl
  · rw [if_neg (by exact h), if_neg h]; rfl

theorem nextSlot_withQueue (s : State) (r : List HostAct) (p : SeqPhase) :
    (s.withQueue r).nextSlot p = (s.nextSlot p).withQueue r := by
  unfold State.nextSlot
  by_cases h : s.seq.slot < nSlots
  · rw [if_pos (by exact h), if_pos h]; rfl
  · rw [if_neg (by exact h), if_neg h]; rfl

theorem commitRead_withQueue (s : State) (r : List HostAct) :
    (s.withQueue r).commitRead = s.commitRead.withQueue r := by
  let u : State := { s with mem := s.mem.writeBytes (imgAddrOf s.seq.slot) s.stage }
  exact nextSlot_withQueue u.countSlot r .readDesc

theorem commitWrite_withQueue (s : State) (r : List HostAct) (g : Target) :
    (s.withQueue r).commitWrite g = (s.commitWrite g).withQueue r := by
  cases g with
  | scanKey =>
    unfold State.commitWrite
    by_cases h : cfgPvar s.latchedCfg = true
    · rw [if_pos (by exact h), if_pos h]; rfl
    · rw [if_neg (by exact h), if_neg h]; rfl
  | mask => rfl
  | slot => exact nextSlot_withQueue s.countSlot r _

/-- A step of SEQ neither reads nor changes HOST's pending acts. -/
theorem seqPhase_withQueue (s : State) (r : List HostAct) (p : SeqPhase) :
    (s.withQueue r).seqPhase p = (s.seqPhase p).withQueue r := by
  cases p
  case openLink =>
    show (s.withQueue r).stepOpen = s.stepOpen.withQueue r
    unfold State.stepOpen
    rw [answered_withQueue]
    by_cases h : s.openAnswer = true
    · rw [if_pos (by exact h), if_pos h]; rfl
    · rw [if_neg (by exact h), if_neg h]; rfl
  case listen =>
    show (s.withQueue r).stepListen = s.stepListen.withQueue r
    unfold State.stepListen
    rw [show (s.withQueue r).rxAnswer 1 = s.rxAnswer 1 from rfl, afterRx_withQueue]
    cases s.rxAnswer 1 with
    | none => rfl
    | some bs =>
      by_cases h : recByte bs 0 = s.par.listenCode
      · simp only [State.withQueue, if_pos h]; exact if_pos h
      · simp only [State.withQueue, if_neg h]; exact if_neg h
  case echo0 => exact check_withQueue s r _ _ _ (·.goto .verReq) fun _ => rfl
  case conf1Echo => exact check_withQueue s r _ _ _ (·.goto .mark) fun _ => rfl
  case conf2Echo =>
    exact check_withQueue s r _ _ _ (fun t => (t.setSession .keyExchanged).firstTransaction) fun t =>
      firstTransaction_withQueue (t.setSession .keyExchanged) r
  case readCheck =>
    exact check_withQueue s r _ _ _ (·.commitRead) fun t => commitRead_withQueue t r
  case writeCheck g =>
    have h : (s.withQueue r).checkSlot g = s.checkSlot g := by cases g <;> rfl
    show (s.withQueue r).check s.par.k2 g.errPhase ((s.withQueue r).checkSlot g)
      (·.commitWrite g) = _
    rw [h]
    exact check_withQueue s r _ _ _ (·.commitWrite g) fun t => commitWrite_withQueue t r g
  case ident => exact receive_withQueue s r _ _ _ (fun _ t => t.goto .keySend) fun _ _ => rfl
  case resp => exact receive_withQueue s r _ _ _ (fun _ t => t.goto .conf2) fun _ _ => rfl
  case readData =>
    show (s.withQueue r).receive recLen .slotData s.seq.slot
      (fun d t => { t with stage := xorBytes s.par.k2 d }.goto t.afterReadData) = _
    exact receive_withQueue s r _ _ _
      (fun d t => { t with stage := xorBytes s.par.k2 d }.goto t.afterReadData) fun _ _ => rfl
  case readDesc =>
    show (s.withQueue r).activate.sendFrame .readDesc = _
    rw [activate_withQueue]; exact sendFrame_withQueue s.activate r _
  case writeDesc g =>
    show (s.withQueue r).activate.sendFrame (.writeDesc g) = _
    rw [activate_withQueue]; exact sendFrame_withQueue s.activate r _
  case termCheck =>
    show (s.withQueue r).stepTermCheck = s.stepTermCheck.withQueue r
    unfold State.stepTermCheck
    rw [show (s.withQueue r).rxAnswer 1 = s.rxAnswer 1 from rfl, afterRx_withQueue]
    show (match checkFailure s.par.k2 .term 0 (s.rxAnswer 1) with | none => _ | some f => _) = _
    cases checkFailure s.par.k2 .term 0 (s.rxAnswer 1) with
    | none => rfl
    | some f =>
      show (match s.seq.error with | some _ => _ | none => _) = _
      cases s.seq.error <;> rfl
  case termClose =>
    show (s.withQueue r).stepTermClose = s.stepTermClose.withQueue r
    unfold State.stepTermClose
    show (match s.seq.error with | some f => _ | none => _) = _
    cases s.seq.error <;> rfl
  case idle => rfl
  case baud => rfl
  all_goals exact sendFrame_withQueue s r _

/-- A step of a running session that HOST polls is SEQ's, and the POLL stays pending. -/
theorem step_session_poll {s : State} {rest : List HostAct} (hq : s.hostQueue = .poll :: rest)
    (hb : s.status.busy = true) : step s = .next (s.seqPhase s.seq.phase) := by
  rw [step_poll hq, if_pos hb, State.seqStep, if_pos hb]

/-- A step of a running session in which HOST waits is SEQ's, and the wait is used up. -/
theorem step_session_wait {s : State} {rest : List HostAct} (hq : s.hostQueue = .wait :: rest)
    (hb : s.status.busy = true) :
    step s = .next ((s.seqPhase s.seq.phase).withQueue rest) := by
  rw [step_wait hq, State.seqStep, if_pos (by exact hb)]
  exact congrArg Host.Outcome.next (seqPhase_withQueue s rest s.seq.phase)

/-- Everything a step of a running session that HOST leaves to SEQ can do. -/
theorem step_seqTurn {s : State} (ht : s.seqTurn = true) (hb : s.status.busy = true) :
    ∃ r, step s = .next ((s.seqPhase s.seq.phase).withQueue r) := by
  have hk : ∀ p, (s.seqPhase p).withQueue s.hostQueue = s.seqPhase p := fun p =>
    (seqPhase_withQueue s s.hostQueue p).symm
  unfold State.seqTurn at ht
  split at ht
  · exact ⟨s.hostQueue, by rw [hk]; exact step_session ‹_› hb⟩
  · exact ⟨s.hostQueue, by rw [hk]; exact step_session_poll ‹_› hb⟩
  · exact ⟨_, step_session_wait ‹_› hb⟩
  all_goals cases ht

end Sys2Proof.Machine
end

