-- ==== Sys2Proof/Laws/PerInstr.lean ====
section
/-! SUPPORT. A fact about every command as syntax, one lemma per constructor of `Instr`: its word is one
that R49 calls legal. -/

namespace Sys2Proof.Laws.EncodeLegal

/-- The word of the command is legal (R47, R49): OP in the map, the reserved bits 0, and SLOTM1 = 0
unless the command names a slot. -/
def Statement (i : Instr) : Prop := legalWord (encode i) = true

theorem fenc : Statement .fenc := rfl
theorem fdec : Statement .fdec := rfl
theorem stepf : Statement .stepf := rfl
theorem tenc : Statement .tenc := rfl
theorem tdec : Statement .tdec := rfl
theorem genc : Statement .genc := rfl
theorem gdec : Statement .gdec := rfl
theorem csum : ∀ slot, Statement (.csum slot) := by unfold Statement; decide
theorem amask : Statement .amask := rfl
theorem renc : ∀ slot, Statement (.renc slot) := by unfold Statement; decide
theorem rdec : ∀ slot, Statement (.rdec slot) := by unfold Statement; decide
theorem ienc : Statement .ienc := rfl
theorem idec : Statement .idec := rfl
theorem rdall : Statement .rdall := rfl
theorem wrall : Statement .wrall := rfl

end Sys2Proof.Laws.EncodeLegal
end

