-- ==== Sys2Proof/Laws/Record.lean ====
section
/-! SUPPORT. The laws of the record and table buffers: what a record or an entry written to TBL or IMG
reads back as, what stays, and what the parameters' constraints say of the record's layout. -/

namespace Sys2Proof.Machine

open Sys2Proof.Config

/-! ## The parameters' constraints -/

/-- R97: the template's offsets are distinct, in the record and off every field. -/
theorem template_spec (p : BlockParams) :
    (p.raw.templateB.map Prod.fst).Nodup ∧ ∀ ov ∈ p.raw.templateB,
      ov.1 < 32 ∧ ov.1 ∉ fieldOffsets ∧ ov.1 ≠ p.raw.stepRxOff ∧ ov.1 ≠ p.raw.stepTxOff := by
  have h := p.ok
  simp only [Params.wellFormed, Params.templateOk, stepOffsetOk, Bool.and_eq_true,
    decide_eq_true_eq, List.all_eq_true] at h
  refine ⟨h.1.2.1.2, fun ov hov => ?_⟩
  have := h.1.2.2 ov hov
  simpa [and_assoc] using this

/-- R53: the step-flag offsets are distinct, in the record and off every other field. -/
theorem stepOffsets_spec (p : BlockParams) :
    p.raw.stepRxOff < 32 ∧ p.raw.stepRxOff ∉ fieldOffsets ∧ p.raw.stepTxOff < 32 ∧
      p.raw.stepTxOff ∉ fieldOffsets ∧ p.raw.stepRxOff ≠ p.raw.stepTxOff := by
  have h := p.ok
  simp only [Params.wellFormed, Params.stepOffsetsOk, stepOffsetOk, Bool.and_eq_true,
    decide_eq_true_eq] at h
  have := h.1.1.2
  simpa [and_assoc] using this

/-- R75: tones distinct and non-zero, pairs distinct and none the "no tone" pair. -/
theorem toneTable_spec (p : BlockParams) :
    (p.raw.toneTableA.map ToneEntry.tone).Nodup ∧ (p.raw.toneTableA.map ToneEntry.bytes).Nodup ∧
      ∀ e ∈ p.raw.toneTableA, e.tone ≠ 0 ∧ e.bytes ≠ p.raw.noToneA := by
  have h := p.ok
  simp only [Params.wellFormed, Params.toneTableOk, Bool.and_eq_true, decide_eq_true_eq,
    List.all_eq_true] at h
  exact ⟨h.2.1.1, h.2.1.2, fun e he => by simpa using h.2.2 e he⟩

/-- The wire constants' constraints (R4, R5, R6, R30, R144, D1). -/
theorem wire_spec (p : BlockParams) :
    p.raw.progReq.length = 7 ∧ p.raw.cmdRead ≠ p.raw.cmdWrite ∧ p.raw.respLen ≤ 255 ∧
      1 ≤ p.raw.scanKeyData.length ∧ p.raw.scanKeyData.length ≤ 255 ∧
      p.raw.baseAddr.toNat + 0x1FF ≤ 0xFFFF := by
  have h := p.ok
  simp only [Params.wellFormed, Params.wireOk, Bool.and_eq_true, decide_eq_true_eq] at h
  have := h.1.1.1
  simpa [and_assoc, progReqLen] using this

/-- Offset by offset, what an offset outside the fixed fields is not (R53). -/
theorem not_fieldOffset {o : Nat} (h : o ∉ fieldOffsets) :
    o ≠ 0 ∧ ¬(2 ≤ o ∧ o < 10) ∧ ¬(12 ≤ o ∧ o < 16) ∧ o ≠ 17 := by
  simp [fieldOffsets] at h
  omega

/-- An entry of a list whose keys are distinct is the one that a search for its key finds. -/
theorem find?_of_nodup {α β : Type} [BEq β] [LawfulBEq β] (f : α → β) (l : List α)
    (h : (l.map f).Nodup) (e : α) (he : e ∈ l) : l.find? (fun x => f x == f e) = some e := by
  induction l with
  | nil => cases he
  | cons x l ih =>
    simp only [List.map_cons, List.nodup_cons] at h
    by_cases hx : f x = f e
    · have : e = x := by
        rcases List.mem_cons.1 he with rfl | h1
        · rfl
        · exact absurd (List.mem_map.2 ⟨e, h1, hx.symm⟩) h.1
      subst this; simp
    · rw [List.find?_cons_of_neg (by simpa using hx)]
      apply ih h.2
      rcases List.mem_cons.1 he with rfl | h1
      · exact absurd rfl hx
      · exact h1

/-! ## The encoded record -/

@[simp] theorem emptyRecord_length (p : Params) (cfg : BitVec 5) :
    (emptyRecord p cfg).length = 32 := by
  unfold emptyRecord; split <;> simp [recLen]

theorem emptyRecord_getD (p : BlockParams) (cfg : BitVec 5) (k : Nat) (hk : k < 32) :
    (emptyRecord p.raw cfg).getD k 0 = emptyByte p.raw cfg k := by
  have hr : (List.replicate recLen emptyMarker).getD k 0 = 0xFF := by
    simp only [List.getD_eq_getElem?_getD, recLen, List.getElem?_replicate, hk, if_true]
    rfl
  unfold emptyRecord emptyByte
  split
  · rw [putPairs_getD _ _ _ (template_spec p).1 (by
      intro ov h; simpa [recLen] using ((template_spec p).2 ov h).1), hr]
  · exact hr

@[simp] theorem layRecord_length (p : Params) (cfg : BitVec 5) (n : Nat) (x : RecordFields) :
    (layRecord p cfg n x).length = 32 := by
  unfold layRecord layTx
  split <;> simp

/-- An encoded record has 32 bytes (R53). -/
theorem encodeRecord_length {p : Params} {cfg : BitVec 5} {e : TblEntry} {n : Nat} {r : List Byte}
    (h : encodeRecord p cfg e n = .ok r) : r.length = 32 := by
  unfold encodeRecord at h
  split at h
  · split at h
    · cases h; simp
    · cases h
  · cases h; simp

/-! ## IMG -/

theorem imgAddr_eq (i : SlotIx) : imgAddr i = 0x200 + 32 * i.val := by
  simp [imgAddr, imgAddrOf, SlotIx.number]

@[simp] theorem readRecord_length (m : Memory) (i : SlotIx) : (readRecord m i).length = 32 := by
  simp [readRecord, readRecordOf, recLen]

theorem readRecord_getD (m : Memory) (i : SlotIx) (k : Nat) (hk : k < 32) :
    recByte (readRecord m i) k = m.read (0x200 + 32 * i.val + k) := by
  unfold recByte readRecord readRecordOf recLen
  rw [Memory.readBytes_getD _ _ _ _ hk]
  simp [imgAddrOf, SlotIx.number]

theorem writeRecord_read (m : Memory) (i : SlotIx) (r : List Byte) (hl : r.length = 32) (k : Nat)
    (hk : k < 32) : (writeRecord m i r).read (0x200 + 32 * i.val + k) = r.getD k 0 := by
  have := i.isLt
  rw [writeRecord, Memory.read_writeBytes, hl, imgAddr_eq, if_pos (by omega),
    storedBits_img (by omega) (by omega),
    show 0x200 + 32 * i.val + k - (0x200 + 32 * i.val) = k by omega]
  exact BitVec.and_allOnes (x := r.getD k 0)

theorem writeRecord_outside (m : Memory) (i : SlotIx) (r : List Byte) (hl : r.length = 32)
    (a : Nat) (h : a < 0x200 + 32 * i.val ∨ 0x200 + 32 * i.val + 32 ≤ a) :
    (writeRecord m i r).read a = m.read a := by
  rw [writeRecord, Memory.read_writeBytes, hl, imgAddr_eq, if_neg (by omega)]

/-- A record written to IMG reads back whole (R38). -/
theorem readRecord_writeRecord (m : Memory) (i : SlotIx) (r : List Byte) (hl : r.length = 32) :
    readRecord (writeRecord m i r) i = r := by
  apply List.ext_getElem
  · simp [hl]
  · intro k h1 h2
    have hk : k < 32 := by simpa using h1
    have := readRecord_getD (writeRecord m i r) i k hk
    rw [writeRecord_read _ _ _ hl _ hk, recByte, List.getD_eq_getElem?_getD,
      List.getD_eq_getElem?_getD, List.getElem?_eq_getElem h1, List.getElem?_eq_getElem h2] at this
    simpa using this

/-! ## TBL -/

theorem tblAddr_eq (i : SlotIx) : tblAddr i = 0x100 + 16 * i.val := rfl

@[simp] theorem TblEntry.bytes_length (e : TblEntry) : e.bytes.length = 16 := by
  simp [TblEntry.bytes]

theorem writeEntry_outside (m : Memory) (i : SlotIx) (e : TblEntry) (a : Nat)
    (h : a < 0x100 + 16 * i.val ∨ 0x100 + 16 * i.val + 16 ≤ a) :
    (writeEntry m i e).read a = m.read a := by
  rw [writeEntry, Memory.read_writeBytes, tblAddr_eq, TblEntry.bytes_length, if_neg (by omega)]

theorem writeEntry_read (m : Memory) (i : SlotIx) (e : TblEntry) (k : Nat) (hk : k < 16) :
    (writeEntry m i e).read (0x100 + 16 * i.val + k) =
      e.bytes.getD k 0 &&& (if k < 12 then 0xFF else if k = 12 then 0x1F else 0) := by
  have := i.isLt
  rw [writeEntry, Memory.read_writeBytes, tblAddr_eq, TblEntry.bytes_length, if_pos (by omega)]
  unfold storedBits
  rw [if_neg (by omega), if_pos (by omega), show (256 + 16 * i.val + k) % 16 = k by omega,
    show 0x100 + 16 * i.val + k - (0x100 + 16 * i.val) = k by omega]

/-- The flags of an entry's byte 12, bit by bit (R21). -/
theorem TblEntry.flagByte_bits (e : TblEntry) :
    e.flagByte.getLsbD 0 = e.rxv ∧ e.flagByte.getLsbD 1 = e.txv ∧ e.flagByte.getLsbD 2 = e.power ∧
      e.flagByte.getLsbD 3 = e.width ∧ e.flagByte.getLsbD 4 = e.scan ∧
      e.flagByte &&& 0x1F = e.flagByte := by
  have h : ∀ a b c d f : Bool, ∀ x : Byte, x = 0#3 ++ BitVec.ofBool f ++ BitVec.ofBool d ++
      BitVec.ofBool c ++ BitVec.ofBool b ++ BitVec.ofBool a →
      x.getLsbD 0 = a ∧ x.getLsbD 1 = b ∧ x.getLsbD 2 = c ∧ x.getLsbD 3 = d ∧ x.getLsbD 4 = f ∧
        x &&& 0x1F = x := by
    intro a b c d f x hx
    subst hx
    cases a <;> cases b <;> cases c <;> cases d <;> cases f <;> decide
  exact h _ _ _ _ _ _ rfl

/-- An entry written to TBL reads back whole (R38). -/
theorem readEntry_writeEntry (m : Memory) (i : SlotIx) (e : TblEntry) :
    readEntry (writeEntry m i e) i = e := by
  have w4 : ∀ w : Word, BitVec.ofNat 32 (leNat (leBytes 4 w.toNat)) = w := by
    intro w; rw [leNat_leBytes]; apply BitVec.eq_of_toNat_eq; have := w.isLt; simp; omega
  have w2 : ∀ w : BitVec 16, BitVec.ofNat 16 (leNat (leBytes 2 w.toNat)) = w := by
    intro w; rw [leNat_leBytes]; apply BitVec.eq_of_toNat_eq; have := w.isLt; simp; omega
  have rb : ∀ o n (l : List Byte), o + n ≤ 12 → l.length = n →
      (∀ k, k < n → e.bytes.getD (o + k) 0 = l.getD k 0) →
      (writeEntry m i e).readBytes (tblAddr i + o) n = l := by
    intro o n l h hl hk
    apply List.ext_getElem
    · simp [hl]
    · intro k h1 h2
      have hkn : k < n := by simpa using h1
      have := Memory.readBytes_getD (writeEntry m i e) n (tblAddr i + o) k hkn
      rw [tblAddr_eq, Nat.add_assoc (0x100 + 16 * i.val), writeEntry_read _ _ _ _ (by omega),
        if_pos (by omega), hk k hkn] at this
      have hf : l.getD k 0 &&& 0xFF = l.getD k 0 := BitVec.and_allOnes (x := l.getD k 0)
      rw [hf, List.getD_eq_getElem?_getD, List.getD_eq_getElem?_getD, List.getElem?_eq_getElem h2,
        ← tblAddr_eq, List.getElem?_eq_getElem h1] at this
      simpa using this
  obtain ⟨g0, g1, g2, g3, g4, g5⟩ := e.flagByte_bits
  have fb : (writeEntry m i e).read (tblAddr i + 12) = e.flagByte := by
    rw [tblAddr_eq, writeEntry_read _ _ _ _ (by omega), if_neg (by omega), if_pos rfl]
    exact g5
  have k4 : ∀ P : Nat → Prop, P 0 → P 1 → P 2 → P 3 → ∀ k, k < 4 → P k := by
    intro P a b c d k hk
    have : k = 0 ∨ k = 1 ∨ k = 2 ∨ k = 3 := by omega
    rcases this with rfl | rfl | rfl | rfl <;> assumption
  have k2 : ∀ P : Nat → Prop, P 0 → P 1 → ∀ k, k < 2 → P k := by
    intro P a b k hk
    have : k = 0 ∨ k = 1 := by omega
    rcases this with rfl | rfl <;> assumption
  have e1 := rb 0 4 (leBytes 4 e.rxf.toNat) (by omega) (by simp) (k4 _ rfl rfl rfl rfl)
  have e2 := rb 4 4 (leBytes 4 e.txf.toNat) (by omega) (by simp) (k4 _ rfl rfl rfl rfl)
  have e3 := rb 8 2 (leBytes 2 e.rxt.toNat) (by omega) (by simp) (k2 _ rfl rfl)
  have e4 := rb 10 2 (leBytes 2 e.txt.toNat) (by omega) (by simp) (k2 _ rfl rfl)
  rw [show tblAddr i + 0 = tblAddr i from rfl] at e1
  unfold readEntry readEntryAt
  rw [e1, e2, e3, e4, fb, w4, w4, w2, w2, g0, g1, g2, g3, g4]

/-- An entry is read from its sixteen bytes alone. -/
theorem readEntry_congr {m m' : Memory} (i : SlotIx)
    (h : ∀ a, 0x100 + 16 * i.val ≤ a → a < 0x100 + 16 * i.val + 16 → m.read a = m'.read a) :
    readEntry m i = readEntry m' i := by
  have hb : ∀ o n, o + n ≤ 16 → m.readBytes (tblAddr i + o) n = m'.readBytes (tblAddr i + o) n := by
    intro o n ho
    apply Memory.readBytes_congr
    intro x hx
    rw [tblAddr_eq]
    exact h _ (by omega) (by omega)
  have h12 : m.read (tblAddr i + 12) = m'.read (tblAddr i + 12) :=
    h _ (by rw [tblAddr_eq]; omega) (by rw [tblAddr_eq]; omega)
  have h0 := hb 0 4 (by omega)
  rw [show tblAddr i + 0 = tblAddr i from rfl] at h0
  unfold readEntry readEntryAt
  rw [h0, hb 4 4 (by omega), hb 8 2 (by omega), hb 10 2 (by omega), h12]

/-- A record is read from its 32 bytes alone. -/
theorem readRecord_congr {m m' : Memory} (i : SlotIx)
    (h : ∀ a, 0x200 + 32 * i.val ≤ a → a < 0x200 + 32 * i.val + 32 → m.read a = m'.read a) :
    readRecord m i = readRecord m' i := by
  unfold readRecord readRecordOf
  apply Memory.readBytes_congr
  intro x hx
  simp only [imgAddrOf, SlotIx.number, recLen] at hx ⊢
  exact h _ (by omega) (by omega)

/-! ## The sixteen records and entries together -/

/-- A byte of equally long blocks laid one after the other. -/
theorem flatten_getD (n : Nat) (l : List (List Byte)) :
    (∀ b ∈ l, b.length = n) → ∀ i k, i < l.length → k < n →
      l.flatten.getD (n * i + k) 0 = (l.getD i []).getD k 0 := by
  induction l with
  | nil => intro _ i k hi; simp at hi
  | cons b bs ih =>
    intro h i k hi hk
    have hb : b.length = n := h b (by simp)
    rw [List.flatten_cons]
    cases i with
    | zero => rw [List.getD_append _ _ _ _ (by omega)]; simp
    | succ i =>
      rw [Nat.mul_succ, List.getD_append_right _ _ _ _ (by omega), List.getD_cons_succ,
        ← ih (fun b hb => h b (by simp [hb])) i k (by simpa using hi) hk]
      congr 1; omega

theorem flatten_length (n : Nat) (l : List (List Byte)) (h : ∀ b ∈ l, b.length = n) :
    l.flatten.length = n * l.length := by
  induction l with
  | nil => simp
  | cons b bs ih =>
    rw [List.flatten_cons, List.length_append, ih fun b hb => h b (by simp [hb]),
      h b (by simp), List.length_cons, Nat.mul_succ]
    omega

theorem writeImage_outside (m : Memory) (rs : List (List Byte)) (hn : rs.length = 16)
    (hl : ∀ r ∈ rs, r.length = 32) (a : Nat) (h : a < 0x200 ∨ 0x400 ≤ a) :
    (writeImage m rs).read a = m.read a := by
  rw [writeImage, Memory.read_writeBytes, flatten_length 32 rs hl, hn, if_neg (by omega)]

/-- Every record of an image written to IMG reads back whole. -/
theorem readRecord_writeImage (m : Memory) (rs : List (List Byte)) (hn : rs.length = 16)
    (hl : ∀ r ∈ rs, r.length = 32) (i : SlotIx) :
    readRecord (writeImage m rs) i = rs.getD i.val [] := by
  have hi := i.isLt
  have hmem : rs.getD i.val [] ∈ rs := by
    rw [List.getD_eq_getElem?_getD, List.getElem?_eq_getElem (by omega)]
    exact List.getElem_mem _
  have hlen := hl _ hmem
  apply List.ext_getElem
  · rw [hlen]; simp
  · intro k h1 h2
    have hk : k < 32 := by simpa using h1
    have h3 := readRecord_getD (writeImage m rs) i k hk
    rw [writeImage, Memory.read_writeBytes, flatten_length 32 rs hl, hn, if_pos (by omega),
      storedBits_img (by omega) (by omega),
      show 0x200 + 32 * i.val + k - 0x200 = 32 * i.val + k by omega,
      flatten_getD 32 rs hl i.val k (by omega) hk] at h3
    have hf : (rs.getD i.val []).getD k 0 &&& 0xFF = (rs.getD i.val []).getD k 0 :=
      BitVec.and_allOnes (x := (rs.getD i.val []).getD k 0)
    rw [hf, recByte, List.getD_eq_getElem?_getD (l := readRecord _ _),
      List.getElem?_eq_getElem (by simpa using hk),
      List.getD_eq_getElem?_getD (l := rs.getD i.val []),
      List.getElem?_eq_getElem h2] at h3
    simpa [writeImage] using h3

theorem writeTable_outside (m : Memory) (es : List TblEntry) (hn : es.length = 16) (a : Nat)
    (h : a < 0x100 ∨ 0x200 ≤ a) : (writeTable m es).read a = m.read a := by
  have hl : ∀ b ∈ es.map TblEntry.bytes, b.length = 16 := by
    intro b hb
    obtain ⟨e, _, rfl⟩ := List.mem_map.1 hb
    simp
  rw [writeTable, Memory.read_writeBytes, flatten_length 16 _ hl, List.length_map, hn,
    if_neg (by omega)]

/-- Every entry of a table written to TBL reads back whole. -/
theorem readEntry_writeTable (m : Memory) (es : List TblEntry) (hn : es.length = 16)
    (i : SlotIx) : readEntry (writeTable m es) i = es.getD i.val TblEntry.empty := by
  have hi := i.isLt
  have hl : ∀ b ∈ es.map TblEntry.bytes, b.length = 16 := by
    intro b hb
    obtain ⟨e, _, rfl⟩ := List.mem_map.1 hb
    simp
  rw [← readEntry_writeEntry m i (es.getD i.val TblEntry.empty)]
  apply readEntry_congr
  intro a h1 h2
  obtain ⟨k, rfl⟩ : ∃ k, a = 0x100 + 16 * i.val + k := ⟨a - (0x100 + 16 * i.val), by omega⟩
  have hk : k < 16 := by omega
  rw [writeEntry_read _ _ _ _ hk, writeTable, Memory.read_writeBytes, flatten_length 16 _ hl,
    List.length_map, hn, if_pos (by omega),
    show 0x100 + 16 * i.val + k - 0x100 = 16 * i.val + k by omega,
    flatten_getD 16 _ hl i.val k (by rw [List.length_map]; omega) hk]
  have he : (es.map TblEntry.bytes).getD i.val [] = (es.getD i.val TblEntry.empty).bytes := by
    simp only [List.getD_eq_getElem?_getD, List.getElem?_map]
    rw [List.getElem?_eq_getElem (by omega)]
    rfl
  rw [he]
  congr 1
  unfold storedBits
  rw [if_neg (by omega), if_pos (by omega), show (256 + 16 * i.val + k) % 16 = k by omega]

/-- Entry by entry of a list that `allSlots` indexes. -/
theorem getD_of_allSlots {α ε : Type} (f : SlotIx → Except ε α) (as : List α)
    (h : allSlots.map f = as.map Except.ok) (d : α) :
    as.length = 16 ∧ ∀ i : SlotIx, f i = .ok (as.getD i.val d) := by
  have hlen : as.length = 16 := by
    have := congrArg List.length h
    simpa [allSlots] using this.symm
  refine ⟨hlen, fun i => ?_⟩
  have hi := i.isLt
  have hs : allSlots[i.val]? = some i := by revert i; decide
  have h1 : (allSlots.map f)[i.val]? = some (f i) := by
    rw [List.getElem?_map, hs]; rfl
  rw [h, List.getElem?_map, List.getElem?_eq_getElem (by omega)] at h1
  rw [List.getD_eq_getElem?_getD, List.getElem?_eq_getElem (by omega)]
  simpa using h1.symm

/-- When the whole table encodes: its records, one per slot; or the lowest slot that does not, with
its first failing field (R108). -/
theorem encodeTable_cases (p : Params) (cfg : BitVec 5) (m : Memory) :
    ((∀ i, firstEncodeError p cfg (readEntry m i) = none) ∧
      ∃ rs, encodeTable p cfg m = .ok rs ∧ rs.length = 16 ∧ (∀ r ∈ rs, r.length = 32) ∧
        ∀ i : SlotIx, encodeRecord p cfg (readEntry m i) (i.val + 1) = .ok (rs.getD i.val [])) ∨
    ∃ i fld, (∀ j, j < i → firstEncodeError p cfg (readEntry m j) = none) ∧
      firstEncodeError p cfg (readEntry m i) = some fld ∧
      encodeTable p cfg m = .error (i, .encodingError, fld) := by
  rcases forSlots_cases (fun i => encodeRecord p cfg (readEntry m i) i.number) allSlots with
    ⟨rs, h1, h2⟩ | ⟨pre, i, post, kf, h1, h2, h3, h4⟩
  · obtain ⟨hlen, hget⟩ := getD_of_allSlots _ _ h2 []
    refine .inl ⟨fun i => ?_, rs, h1, hlen, fun r hr => ?_, hget⟩
    · rcases encodeRecord_cases p cfg (readEntry m i) i.number with ⟨h, _⟩ | ⟨f, _, he⟩
      · exact h
      · rw [hget i] at he; cases he
    · obtain ⟨k, hk, rfl⟩ := List.getElem_of_mem hr
      have := hget ⟨k, by omega⟩
      rw [List.getD_eq_getElem?_getD, List.getElem?_eq_getElem hk] at this
      exact encodeRecord_length this
  · rcases encodeRecord_cases p cfg (readEntry m i) i.number with ⟨_, r, he⟩ | ⟨f, hf, he⟩
    · rw [h3] at he; cases he
    · rw [h3] at he
      cases he
      refine .inr ⟨i, f, fun j hj => ?_, hf, h4⟩
      have hpre : j ∈ pre := by
        have hs : allSlots.Pairwise (· < ·) := by decide
        have hm := mem_allSlots j
        rw [h1] at hs hm
        rcases List.mem_append.1 hm with h | h
        · exact h
        · rw [List.pairwise_append] at hs
          rcases List.mem_cons.1 h with rfl | h
          · exact absurd hj (lt_irrefl _)
          · have := (List.pairwise_cons.1 hs.2.1).1 j h
            exact absurd hj (not_lt.2 (le_of_lt this))
      obtain ⟨r, hr⟩ := h2 j hpre
      rcases encodeRecord_cases p cfg (readEntry m j) j.number with ⟨h, _⟩ | ⟨f', _, he⟩
      · exact h
      · rw [hr] at he; cases he

/-- When the whole image decodes: its entries, one per slot; or the lowest slot that does not, with
its first failing field (R109). -/
theorem decodeImage_cases (p : Params) (cfg : BitVec 5) (m : Memory) :
    ((∀ i, firstDecodeError p cfg (readRecord m i) = none) ∧
      ∃ es, decodeImage p cfg m = .ok es ∧ es.length = 16 ∧
        ∀ i : SlotIx, decodeRecord p cfg (readRecord m i) = .ok (es.getD i.val TblEntry.empty)) ∨
    ∃ i fld, (∀ j, j < i → firstDecodeError p cfg (readRecord m j) = none) ∧
      firstDecodeError p cfg (readRecord m i) = some fld ∧
      decodeImage p cfg m = .error (i, .decodeError, fld) := by
  rcases forSlots_cases (fun i => decodeRecord p cfg (readRecord m i)) allSlots with
    ⟨es, h1, h2⟩ | ⟨pre, i, post, kf, h1, h2, h3, h4⟩
  · obtain ⟨hlen, hget⟩ := getD_of_allSlots _ _ h2 TblEntry.empty
    refine .inl ⟨fun i => ?_, es, h1, hlen, hget⟩
    rcases decodeRecord_cases p cfg (readRecord m i) with ⟨h, _⟩ | ⟨f, _, he⟩
    · exact h
    · rw [hget i] at he; cases he
  · rcases decodeRecord_cases p cfg (readRecord m i) with ⟨_, r, he⟩ | ⟨f, hf, he⟩
    · rw [h3] at he; cases he
    · rw [h3] at he
      cases he
      refine .inr ⟨i, f, fun j hj => ?_, hf, h4⟩
      have hpre : j ∈ pre := by
        have hs : allSlots.Pairwise (· < ·) := by decide
        have hm := mem_allSlots j
        rw [h1] at hs hm
        rcases List.mem_append.1 hm with h | h
        · exact h
        · rw [List.pairwise_append] at hs
          rcases List.mem_cons.1 h with rfl | h
          · exact absurd hj (lt_irrefl _)
          · have := (List.pairwise_cons.1 hs.2.1).1 j h
            exact absurd hj (not_lt.2 (le_of_lt this))
      obtain ⟨r, hr⟩ := h2 j hpre
      rcases decodeRecord_cases p cfg (readRecord m j) with ⟨h, _⟩ | ⟨f', _, he⟩
      · exact h
      · rw [hr] at he; cases he

/-- Bit by bit, the active mask (R107). -/
theorem activeMask_getLsbD (m : Memory) (i : SlotIx) :
    (activeMask m).getLsbD i.val = !slotActive m i := by
  have gen : ∀ (act : SlotIx → Bool) (l : List SlotIx) (a : BitVec 16) (i : SlotIx),
      (l.foldl (fun acc i => if act i then acc &&& ~~~(1#16 <<< i.val) else acc) a).getLsbD i.val =
        (a.getLsbD i.val && !(decide (i ∈ l) && act i)) := by
    intro act l
    induction l with
    | nil => intro a i; simp
    | cons x l ih =>
      intro a i
      rw [List.foldl_cons, ih]
      by_cases hx : i = x
      · subst hx
        cases act i <;> simp
      · have hv : i.val ≠ x.val := fun h => hx (Fin.ext h)
        have hi := i.isLt
        have hxl := x.isLt
        cases act x
        · simp [hx]
        · have hb : (~~~(1#16 <<< x.val)).getLsbD i.val = true := by
            have : ∀ x i : SlotIx, i ≠ x → (~~~(1#16 <<< x.val)).getLsbD i.val = true := by decide
            exact this x i hx
          simp only [if_true, BitVec.getLsbD_and, hb, Bool.and_true, List.mem_cons, hx, false_or]
  unfold activeMask
  rw [gen]
  have h1 : i ∈ allSlots := mem_allSlots i
  have h2 : (0xFFFF#16).getLsbD i.val = true := by revert i; decide
  rw [h2, decide_eq_true h1]
  simp

end Sys2Proof.Machine
end

