-- ==== Sys2Proof/Laws/RoundTrip.lean ====
section
/-! SUPPORT. The field decoders invert the field encoders. -/

namespace Sys2Proof.Machine

open Sys2Proof.Config

/-- A frequency that encodes decodes back (R63, R64, R67, R68; Variant B for multiples of 100). -/
theorem freqDec_freqEnc {cfg : BitVec 5} {f : Nat} {b : List Byte}
    (h : freqEnc cfg f = .ok b) (h100 : cfgFreqSel cfg = true → f % 100 = 0) :
    freqDec cfg b = .ok f := by
  unfold freqEnc freqEncA freqEncB at h
  unfold freqDec freqDecA freqDecB
  split at h
  · rename_i hs
    rw [if_pos hs]
    split at h
    · cases h
    · cases h
      have := h100 hs
      simp only [List.drop_succ_cons, List.drop_zero, bcdSum]
      rw [bcdValue_bcd2 _ (by omega), bcdValue_bcd2 _ (by omega), bcdValue_bcd2 _ (by omega)]
      congr 1
      omega
  · rename_i hs
    rw [if_neg hs]
    split at h
    · cases h
    · cases h
      rw [if_pos]
      · simp only [bcdSum]
        rw [bcdValue_bcd2 _ (by omega), bcdValue_bcd2 _ (by omega), bcdValue_bcd2 _ (by omega),
          bcdValue_bcd2 _ (by omega)]
        congr 1
        omega
      · simp only [List.all_cons, List.all_nil, Bool.and_true, Bool.and_eq_true]
        exact ⟨bcdOk_bcd2 _ (by omega), bcdOk_bcd2 _ (by omega), bcdOk_bcd2 _ (by omega),
          bcdOk_bcd2 _ (by omega)⟩

/-- A tone that encodes decodes back (R76, R77, R79, R80). -/
theorem toneDec_toneEnc (p : BlockParams) {cfg : BitVec 5} {t : BitVec 16} {b : List Byte}
    (h : toneEnc p.raw cfg t.toNat = .ok b) : toneDec p.raw cfg b = .ok t.toNat := by
  obtain ⟨k1, k2, k3⟩ := toneTable_spec p
  unfold toneEnc toneEncA toneEncB at h
  unfold toneDec toneDecA toneDecB
  split at h
  · rename_i hs
    rw [if_pos hs]
    split at h
    · cases h
    · cases h; rw [leNat_leBytes]; have := t.isLt; rw [Nat.mod_eq_of_lt (by omega)]
  · rename_i hs
    rw [if_neg hs]
    split at h
    · cases h; rename_i h0; rw [if_pos rfl, h0]
    · cases hf : p.raw.toneTableA.find? (fun e => e.tone.toNat == t.toNat) with
      | none => rw [hf] at h; cases h
      | some e =>
        rw [hf] at h; cases h
        have hm := List.mem_of_find?_eq_some hf
        have hp := List.find?_some (p := fun e : ToneEntry => e.tone.toNat == t.toNat) hf
        rw [if_neg (k3 e hm).2, find?_of_nodup ToneEntry.bytes _ k2 e hm]
        simp only
        rw [show e.tone.toNat = t.toNat by simpa using hp]

end Sys2Proof.Machine
end

