-- ==== Sys2Proof/Tests/Slice0.lean ====
section
/-! SUPPORT. Tests: the checks of WellFormed and of the parameters refuse what they must; command words
written out from R47 and R48 decode; one-step vectors of 95_test_vectors.md; and, for every statement
of Obligations.lean with hypotheses, a state that meets them (`witness_<statement>`). -/

namespace Sys2Proof.Tests

open Sys2Proof Sys2Proof.Config Sys2Proof.Machine

/-! ## The test parameter set TP (95_test_vectors.md section 2) and small states -/

def tpRaw : Params where
  progReq := [0xA0, 0xA1, 0xA2, 0xA3, 0xA4, 0xA5, 0xA6]
  listenCode := 0x16
  verReq := 0x02
  cmdRead := 0x52
  cmdWrite := 0x57
  cmdSelect := 0x53
  endCode := 0x45
  k2 := 0x5A
  baseAddr := 0x0100
  marker := 0x4D
  respLen := 3
  baudLow := 1
  baudHigh := 2
  stepRxOff := 10
  stepTxOff := 11
  templateB := [(18, 0), (19, 0), (20, 0), (21, 0), (22, 0), (23, 0), (24, 0), (25, 0), (26, 0)]
  toneTableA :=
    [{ tone := 670, p := 0x01, q := 0x00 }, { tone := 1000, p := 0x0C, q := 0x00 },
      { tone := 1318, p := 0x13, q := 0x00 }]
  noToneA0 := 0x00
  noToneA1 := 0x00
  scanKeyAddr := 0x0310
  scanKeyData := [0x01]
  maskAddr := 0x0300
  readAckMode := .sendThenCheck
  tTimeout := 0
  tIbd := 0

def tp : BlockParams where
  raw := tpRaw

/-- TP with the other acknowledgement form and no marker response, at the highest base address. -/
def tp0 : BlockParams where
  raw := { tpRaw with readAckMode := .checkOnly, respLen := 0, baseAddr := 0xFE00 }

/-- The block after reset with TP. -/
def idle : State := { State.reset with params := tp }

/-- `idle` with CFG and ARG. -/
def operands (cfg : BitVec 5) (arg : Word) : State := { idle with cfg := cfg, arg := arg }

/-- `idle` with CFG and the buffers' contents. -/
def buffers (cfg : BitVec 5) (m : Memory) : State := { idle with cfg := cfg, mem := m }

/-- One step: HOST writes the command word `w`. -/
def command (w : Nat) (s : State) : Result := step (s.withFetchWord 32 w)

/-- RES, STATUS and ERRINFO of a next state. -/
def outcome : Result → Option (Word × Word × Word)
  | .next t => some (t.res, t.status.toWord, t.errInfo.toWord)
  | _ => none

/-- The record of a slot in a next state. -/
def recordOf (i : SlotIx) : Result → List Byte
  | .next t => readRecord t.mem i
  | _ => []

/-- The TBL entry of a slot in a next state. -/
def entryOf (i : SlotIx) : Result → Option TblEntry
  | .next t => some (readEntry t.mem i)
  | _ => none

/-- Entry e3 of V-R2. -/
def e3 : TblEntry := { TblEntry.empty with rxf := 14652000, rxv := true, power := true, scan := true }

/-- Entry e5 of V-R3. -/
def e5 : TblEntry :=
  { TblEntry.empty with
    rxf := 14652000, txf := 14412500, rxt := 1000, txt := 670, rxv := true, txv := true,
    width := true }

/-- The record of E6 under CFG 0x00. -/
def r3 : List Byte :=
  [0x03, 0xFF, 0x00, 0x20, 0x65, 0x14, 0xFF, 0xFF, 0xFF, 0xFF, 0x01, 0xFF, 0x00, 0x00, 0xFF, 0xFF,
    0xFF, 0xEC] ++ List.replicate 14 0xFF

/-- The record of V-R3 under CFG 0x0F. -/
def r5 : List Byte :=
  [0x05, 0xFF, 0xFF, 0x20, 0x65, 0x14, 0xFF, 0x25, 0x41, 0x14, 0x01, 0x02, 0xE8, 0x03, 0x9E, 0x02,
    0xFF, 0xDD] ++ List.replicate 9 0x00 ++ List.replicate 5 0xFF

/-- The record of V-R8. -/
def r8 : List Byte :=
  [0x04, 0xFF, 0x00, 0x20, 0x65, 0x14, 0xFF, 0xFF, 0xFF, 0xFF, 0xFF, 0xFF, 0x00, 0x00, 0xFF, 0xFF,
    0xFF, 0xEE] ++ List.replicate 14 0xFF

/-- TBL[3] = e3. -/
def table3 : Memory := writeEntry [] 2 e3

/-- TBL[5] = e5. -/
def table5 : Memory := writeEntry [] 4 e5

/-- TBL[s] in use with the receive frequency `f`. -/
def tableBad (i : SlotIx) (f : Word) : Memory :=
  writeEntry [] i { TblEntry.empty with rxv := true, rxf := f }

/-- A state of a running session under TP. -/
def session (op : BitVec 8) (p : SeqPhase) (v : SessionState) (hi : Bool) (slot done : Nat) : State :=
  { idle with
    status := { Status.reset with busy := true, sstate := v, link := true, baudHi := hi }
    seq :=
      { op := some op, phase := p, sent := 0, slot := slot, doneSlots := done, error := none } }

/-- DEV answers the one byte `b`. -/
def byteAnswer (b : Byte) : DevAnswer := .present [b]

/-- A state with HOST's next act. -/
def hostDoes (act : HostAct) (s : State) : State := { s with hostQueue := [act] }

/-! ## What is refused: command words, accesses, parameters -/

theorem test_legalWord_refuses_unmapped_op :
    legalWord 0x00000000 = false ∧ legalWord 0x00000014 = false := by decide
theorem test_legalWord_refuses_reserved_bits : legalWord 0x00001010 = false := by decide
theorem test_legalWord_refuses_slot_not_taken : legalWord 0x00000101 = false := by decide
theorem test_accessWidth_refuses_three : accessWidthOk 3 = false := by decide
theorem test_accessAligned_refuses_odd : accessAligned 4 0x102 = false := by decide
theorem test_accessInSpace_refuses_end : accessInSpace 4 0x400 = false := by decide
theorem test_params_refuse_short_progReq :
    { tpRaw with progReq := [0xA0] }.wellFormed = false := by decide
theorem test_params_refuse_equal_commands :
    { tpRaw with cmdWrite := 0x52 }.wellFormed = false := by decide
theorem test_params_refuse_long_response : { tpRaw with respLen := 256 }.wellFormed = false := by
  decide
theorem test_params_refuse_no_scanKeyData :
    { tpRaw with scanKeyData := [] }.wellFormed = false := by decide
theorem test_params_refuse_wrapping_base :
    { tpRaw with baseAddr := 0xFE01 }.wellFormed = false := by decide
theorem test_params_refuse_step_on_field :
    { tpRaw with stepRxOff := 12 }.wellFormed = false := by decide
theorem test_params_refuse_equal_steps :
    { tpRaw with stepTxOff := 10 }.wellFormed = false := by decide
theorem test_params_refuse_template_on_step :
    { tpRaw with stepTxOff := 18 }.wellFormed = false := by decide
theorem test_params_refuse_short_template :
    { tpRaw with templateB := [(18, 0)] }.wellFormed = false := by decide
theorem test_params_refuse_zero_tone :
    { tpRaw with toneTableA := [{ tone := 0, p := 1, q := 0 }] }.wellFormed = false := by decide
theorem test_params_refuse_noTone_pair :
    { tpRaw with toneTableA := [{ tone := 670, p := 0, q := 0 }] }.wellFormed = false := by decide

/-! ## Command words, written bit by bit from R47 and R48: 31:12 reserved, 11:8 SLOTM1, 7:0 OP -/

theorem test_decode_fenc : decode 0b00000000000000000000_0000_00000001 = .ok .fenc := by decide
theorem test_decode_fdec : decode 0b00000000000000000000_0000_00000010 = .ok .fdec := by decide
theorem test_decode_stepf : decode 0b00000000000000000000_0000_00000011 = .ok .stepf := by decide
theorem test_decode_tenc : decode 0b00000000000000000000_0000_00000100 = .ok .tenc := by decide
theorem test_decode_tdec : decode 0b00000000000000000000_0000_00000101 = .ok .tdec := by decide
theorem test_decode_genc : decode 0b00000000000000000000_0000_00000110 = .ok .genc := by decide
theorem test_decode_gdec : decode 0b00000000000000000000_0000_00000111 = .ok .gdec := by decide
theorem test_decode_csum : decode 0b00000000000000000000_1111_00001000 = .ok (.csum 15) := by decide
theorem test_decode_amask : decode 0b00000000000000000000_0000_00001001 = .ok .amask := by decide
theorem test_decode_renc : decode 0b00000000000000000000_0010_00010000 = .ok (.renc 2) := by decide
theorem test_decode_rdec : decode 0b00000000000000000000_1001_00010001 = .ok (.rdec 9) := by decide
theorem test_decode_ienc : decode 0b00000000000000000000_0000_00010010 = .ok .ienc := by decide
theorem test_decode_idec : decode 0b00000000000000000000_0000_00010011 = .ok .idec := by decide
theorem test_decode_rdall : decode 0b00000000000000000000_0000_00100000 = .ok .rdall := by decide
theorem test_decode_wrall : decode 0b00000000000000000000_0000_00100001 = .ok .wrall := by decide

/-! ## One-step vectors -/

/-- V-F7. -/
theorem test_fenc_variantB :
    outcome (command 0x01 (operands 0x01 14652750)) = some (0x146527FF, 0x2, 0) := by decide
/-- V-F4. -/
theorem test_fenc_out_of_range :
    outcome (command 0x01 (operands 0 9999999)) = some (0, 0x46, 0x02000000) := by decide
/-- V-F16. -/
theorem test_fdec_variantB_any_nibble :
    outcome (command 0x02 (operands 0x01 0xFFFFFFFF)) = some (166666500, 0x2, 0) := by decide
/-- V-F13. -/
theorem test_fdec_bad_nibble :
    outcome (command 0x02 (operands 0 0x1465200A)) = some (0, 0x66, 0x03000000) := by decide
/-- V-S1b, conflict C1. -/
theorem test_stepf_first_divisor :
    outcome (command 0x03 (operands 0 14650000)) = some (2, 0x2, 0) := by decide
/-- V-S1h. -/
theorem test_stepf_refused :
    outcome (command 0x03 (operands 0 14652100)) = some (0, 0x46, 0x02000000) := by decide
/-- V-T3. -/
theorem test_tenc_table :
    outcome (command 0x04 (operands 0 1318)) = some (0x13, 0x2, 0) := by decide
/-- V-T12. -/
theorem test_tenc_variantB_too_big :
    outcome (command 0x04 (operands 0x02 0x10000)) = some (0, 0x46, 0x02000000) := by decide
/-- V-T8. -/
theorem test_tdec_not_in_table :
    outcome (command 0x05 (operands 0 0x0002)) = some (0, 0x66, 0x03000000) := by decide
/-- V-T14. -/
theorem test_tdec_variantB :
    outcome (command 0x05 (operands 0x02 0xABCD0375)) = some (885, 0x2, 0) := by decide
/-- V-G1. -/
theorem test_genc_power_scan :
    outcome (command 0x06 (operands 0 0b101)) = some (0xEC, 0x2, 0) := by decide
/-- V-G1. -/
theorem test_genc_width :
    outcome (command 0x06 (operands 0x04 0b010)) = some (0xDD, 0x2, 0) := by decide
/-- V-G2. -/
theorem test_gdec_variantA :
    outcome (command 0x07 (operands 0 0x3D)) = some (0b010, 0x2, 0) ∧
    outcome (command 0x07 (operands 0 0xCE)) = some (0, 0x66, 0x03000000) := by decide
/-- V-G2. -/
theorem test_gdec_variantB :
    outcome (command 0x07 (operands 0x04 0x2C)) = some (0b101, 0x2, 0) := by decide
/-- V-C3. -/
theorem test_csum_rising_bytes :
    outcome (command 0x108
      (buffers 0 (writeRecord [] 1 ((List.range 32).map (BitVec.ofNat 8))))) =
        some (0xF0, 0x2, 0) := by decide +kernel
/-- V-C4. -/
theorem test_csum_of_record :
    outcome (command 0x208 (buffers 0 (writeRecord [] 2 r3))) = some (0x72, 0x2, 0) := by
  decide +kernel
/-- V-R9, slots 3 and 16. -/
theorem test_amask_two_active :
    outcome (command 0x09 (buffers 0 (writeEntry table3 15 e3))) = some (0x7FFB, 0x2, 0) := by
  decide +kernel
/-- V-R9, slot 7 with SCAN = 1 and RXV = 0. -/
theorem test_amask_empty_slot_not_active :
    outcome (command 0x09 (buffers 0 (writeEntry [] 6 { e3 with rxv := false }))) =
      some (0xFFFF, 0x2, 0) := by decide +kernel
/-- V-R3, CFG 0x0F. -/
theorem test_renc_duplex :
    outcome (command 0x410 (buffers 0x0F table5)) = some (0x7A, 0x2, 0) ∧
    recordOf 4 (command 0x410 (buffers 0x0F table5)) = r5 := by decide +kernel
/-- V-R7, third row. -/
theorem test_renc_bad_txf :
    outcome (command 0x310 (buffers 0x01
      (writeEntry [] 3 { e5 with txf := 100000000 }))) = some (0, 0x46, 0x02640000) := by
  decide +kernel
/-- V-R4 and V-R6: byte 0 of the record of slot 3 is 7. -/
theorem test_rdec_receive_only :
    outcome (command 0x211 (buffers 0 (writeRecord [] 2 (r3.set 0 7)))) = some (1, 0x2, 0) ∧
    entryOf 2 (command 0x211 (buffers 0 (writeRecord [] 2 (r3.set 0 7)))) = some e3 := by
  decide +kernel
/-- V-R8. -/
theorem test_rdec_bad_flags :
    outcome (command 0x311 (buffers 0 (writeRecord [] 3 r8))) = some (0, 0x66, 0x03E40000) := by
  decide +kernel
/-- E6, CFG 0x00. -/
theorem test_ienc_scenario1 :
    outcome (command 0x12 (buffers 0 table3)) = some (0xFFFB, 0x2, 0) ∧
    recordOf 2 (command 0x12 (buffers 0 table3)) = r3 := by decide +kernel
/-- V-R10. -/
theorem test_ienc_error_at_slot2 :
    outcome (command 0x12 (buffers 0 (tableBad 1 9999999))) = some (0, 0x46, 0x02220000) := by
  decide +kernel
/-- R114: one slot in use, the others empty (byte 5 = 0xFF). -/
theorem test_idec_counts :
    outcome (command 0x13 (buffers 0
      (writeImage [] (List.replicate 2 (List.replicate 32 0xFF) ++ [r3] ++
        List.replicate 13 (List.replicate 32 0xFF))))) = some (1, 0x2, 0) := by decide +kernel
/-- R109, R160: record 1 is not empty and its flags byte 0x00 does not decode in Variant A. -/
theorem test_idec_error_at_slot1 :
    outcome (command 0x13 (buffers 0 [])) = some (0, 0x66, 0x03E10000) := by decide +kernel
/-- R153: BUSY, SSTATE Idle. -/
theorem test_rdall_starts :
    outcome (command 0x20 { idle with cfg := 0x10, key1 := 0x33 }) = some (0, 0x1, 0) := by decide
/-- P5. -/
theorem test_wrall_encode_error :
    outcome (command 0x21 (buffers 0 (tableBad 1 9999999))) = some (0, 0x546, 0x02220000) := by
  decide +kernel
/-- 95_test_vectors.md section 3.9: the illegal word 0. -/
theorem test_illegal_word :
    outcome (command 0x0 idle) = some (0, 0x76, 0x01000000) := by decide
/-- V-H2, LISTEN answered 00: SEQ.ERROR's info. -/
theorem test_listen_rejected :
    (match step { session 0x20 .listen .idle false 0 0 with devQueue := [byteAnswer 0x00] } with
      | .next t => t.seq.error.map fun f => (f.kind.code, f.info.toWord)
      | _ => none) = some (1, 0x05000016) := by decide
/-- V-X8, slot 5's check answered 00. -/
theorem test_slot_check_mismatch :
    (match step { session 0x20 .readCheck .active true 5 4 with devQueue := [byteAnswer 0x00] } with
      | .next t => t.seq.error.map fun f => (f.kind.code, f.info.toWord)
      | _ => none) = some (2, 0x0E055A06) := by decide
/-- V-X1, slot 9's write descriptor. -/
theorem test_write_descriptor :
    (session 0x21 (.writeDesc .slot) .active true 9 8).frame (.writeDesc .slot) =
      [0x0D, 0x58, 0x5A, 0x7A] := by decide +kernel
/-- R24, R148: SEQ.SLOT is 0 once slot 5's transaction has failed. -/
theorem test_failed_slot_leaves_loop :
    (match step { session 0x20 .readData .active true 5 4 with devQueue := [.absent] } with
      | .next t => some (t.seq.slot, t.seq.doneSlots)
      | _ => none) = some (0, 4) := by decide
/-- R24, R149: SEQ.SLOT is 0 after slot 16's check. -/
theorem test_last_slot_leaves_loop :
    (match step { session 0x21 (.writeCheck .slot) .active true 16 15 with
        devQueue := [byteAnswer 0x5C] } with
      | .next t => some (t.seq.slot, t.seq.doneSlots)
      | _ => none) = some (0, 16) := by decide
/-- R52: LOADCH of slot 3. -/
theorem test_asmLoadCh :
    asmLoadCh 2 14652000 0 0 0 0x15 =
      [.write 4 0x120 0x00DF9260, .write 4 0x124 0, .write 2 0x128 0, .write 2 0x12A 0,
        .write 1 0x12C 0x15] := by decide

/-! ## Witnesses: states that meet the hypotheses of the statements of Obligations.lean -/

theorem witness_DecodeAndEncodeAgree : decode 0x00000F08 = .ok (.csum 15) := by decide

/-- A word that decodes to an error decodes to no command. -/
theorem illegal_of_error {w : Word} {e : DecodeReject} (h : decode w = .error e) (i : Instr) :
    decode w ≠ .ok i := by
  rw [h]; exact fun h' => by cases h'

theorem witness_IllegalWordEndsInIllegalCommand :
    (hostDoes (.write 4 0 0x1010) idle).hostQueue = .write 4 0 0x1010 :: [] ∧
    (hostDoes (.write 4 0 0x1010) idle).status.busy = false ∧ ∀ i, decode 0x1010 ≠ .ok i :=
  ⟨rfl, rfl, illegal_of_error (e := .reservedBits) (by decide)⟩

theorem witness_StepRunsDecodedCommand :
    (hostDoes (.write 4 0 0xF08) idle).hostQueue = .write 4 0 0xF08 :: [] ∧
    (hostDoes (.write 4 0 0xF08) idle).status.busy = false ∧ decode 0xF08 = .ok (.csum 15) := by
  decide

theorem witness_IdleBlockPerformsNoStep :
    idle.status.busy = false ∧ idle.hostQueue = [] ∧
    (hostDoes .wait idle).status.busy = false ∧ (hostDoes .wait idle).hostQueue = .wait :: [] := by
  decide

/-- The four clauses: a width of 3; an access past 0x3FF; a misaligned one; an accepted one. -/
theorem witness_MisalignedAccessIsRefused :
    (hostDoes (.read 3 0) idle).hostQueue = .read 3 0 :: [] ∧ ¬(3 = 1 ∨ 3 = 2 ∨ 3 = 4) ∧
    (hostDoes (.write 2 0x3FF 1) idle).hostQueue = .write 2 0x3FF 1 :: [] ∧ 0x3FF + 2 > 0x400 ∧
    (hostDoes (.read 4 0x3FA) idle).hostQueue = .read 4 0x3FA :: [] ∧ 0x3FA + 4 ≤ 0x400 ∧
    0x3FA % 4 ≠ 0 ∧
    (hostDoes (.write 4 0x3FC 1) idle).hostQueue = .write 4 0x3FC 1 :: [] ∧ 0x3FC + 4 ≤ 0x400 ∧
    0x3FC % 4 = 0 := by decide

theorem witness_CommandWriteNeedsFourBytes :
    (hostDoes (.write 2 2 5) idle).hostQueue = .write 2 2 5 :: [] ∧ 2 + 2 ≤ 4 ∧ 2 % 2 = 0 ∧
    (hostDoes (.write 1 3 5) idle).hostQueue = .write 1 3 5 :: [] ∧ 3 + 1 ≤ 4 ∧ 3 % 1 = 0 ∧
    (hostDoes (.write 4 0 5) idle).hostQueue = .write 4 0 5 :: [] ∧ idle.status.busy = false ∧
    (hostDoes (.read 1 3) idle).hostQueue = .read 1 3 :: [] ∧ accessWellFormed 1 3 = true := by
  decide

/-- A running session, HOST writing a command, reading the last byte of RES and of ACTMASK, the first
of TBL, and STATUS and the last reserved byte; HOST polling, and waiting. -/
theorem witness_BusyHostAccesses :
    (session 0x20 .listen .idle false 0 0).status.busy = true ∧ accessWellFormed 4 0 = true ∧
    (hostDoes (.write 4 0 1) (session 0x20 .listen .idle false 0 0)).hostQueue =
      .write 4 0 1 :: [] ∧
    accessWellFormed 1 0x00B = true ∧ accessWellFormed 1 0x023 = true ∧
    accessWellFormed 4 0x100 = true ∧ accessWellFormed 4 0x00C = true ∧
    accessWellFormed 1 0x0FF = true ∧
    (hostDoes (.read 1 0x00B) (session 0x20 .listen .idle false 0 0)).hostQueue =
      .read 1 0x00B :: [] ∧
    (0x008 ≤ 0x00B ∧ 0x00B < 0x00C) ∧
    ¬((0x008 ≤ 0x0FF ∧ 0x0FF < 0x00C) ∨ (0x020 ≤ 0x0FF ∧ 0x0FF < 0x024) ∨ 0x100 ≤ 0x0FF) ∧
    (hostDoes .poll (session 0x20 .listen .idle false 0 0)).hostQueue = .poll :: [] ∧
    (hostDoes .wait (session 0x20 .listen .idle false 0 0)).hostQueue = .wait :: [] := by decide

theorem witness_HostReadDeliversItsBytes :
    (hostDoes (.read 4 0x3FC) idle).hostQueue = .read 4 0x3FC :: [] ∧
    accessWellFormed 4 0x3FC = true ∧ idle.status.busy = false ∧
    (hostDoes .poll idle).hostQueue = .poll :: [] := by decide

/-- The ends of the reserved space and of TBL and IMG. -/
theorem witness_HostMapReads :
    0x024 ≤ 0x024 ∧ 0x0FF < 0x100 ∧ 0x100 ≤ 0x100 ∧ 0x3FF < 0x400 := by decide

theorem witness_HostWriteChangesItsWritableBytes :
    (hostDoes (.write 4 0x3FC 7) idle).hostQueue = .write 4 0x3FC 7 :: [] ∧
    accessWellFormed 4 0x3FC = true ∧ idle.status.busy = false ∧ ¬(4 = 4 ∧ 0x3FC = 0) ∧
    accessWellFormed 2 0 = true ∧ ¬(2 = 4 ∧ 0 = 0) := by decide

/-- The four clauses, at the ends of the two ranges. -/
theorem witness_FencResult :
    cfgFreqSel (operands 0 10000000).cfg = false ∧ 10000000 ≤ (operands 0 10000000).arg.toNat ∧
    (operands 0 99999999).arg.toNat ≤ 99999999 ∧ ¬10000000 ≤ (operands 0 9999999).arg.toNat ∧
    ¬(operands 0 100000000).arg.toNat ≤ 99999999 ∧
    cfgFreqSel (operands 1 99999999).cfg = true ∧ (operands 1 99999999).arg.toNat ≤ 99999999 ∧
    ¬(operands 1 100000000).arg.toNat ≤ 99999999 := by decide

theorem witness_FdecResult :
    cfgFreqSel (operands 0 0x14652000).cfg = false ∧ nibblesDecimal 0x14652000 8 = true ∧
    nibblesDecimal 0x99999999 8 = true ∧ nibblesDecimal 0x1465200A 8 = false ∧
    cfgFreqSel (operands 1 0xFFFFFFFF).cfg = true := by decide

/-- The five clauses. -/
theorem witness_StepfResult :
    (operands 0 14652100).arg.toNat % 250 ≠ 0 ∧
    (operands 0 14650000).arg.toNat % 100000 % 1250 = 0 ∧
    ((operands 0 14652000).arg.toNat % 100000 % 500 = 0 ∧
      (operands 0 14652000).arg.toNat % 100000 % 1250 ≠ 0) ∧
    ((operands 0 14600750).arg.toNat % 100000 % 750 = 0 ∧
      (operands 0 14600750).arg.toNat % 100000 % 500 ≠ 0 ∧
      (operands 0 14600750).arg.toNat % 100000 % 1250 ≠ 0) ∧
    ((operands 0 14652750).arg.toNat % 250 = 0 ∧
      (operands 0 14652750).arg.toNat % 100000 % 750 ≠ 0 ∧
      (operands 0 14652750).arg.toNat % 100000 % 500 ≠ 0 ∧
      (operands 0 14652750).arg.toNat % 100000 % 1250 ≠ 0) ∧
    14652000 % 100000 = 152000 % 100000 := by decide

theorem witness_TencResult :
    cfgToneSel (operands 0 0).cfg = false ∧ (operands 0 0).arg = 0 ∧
    (∃ e ∈ tp.raw.toneTableA, (operands 0 1318).arg = e.tone.setWidth 32) ∧
    ((operands 0 885).arg ≠ 0 ∧ ∀ e ∈ tp.raw.toneTableA, (operands 0 885).arg ≠ e.tone.setWidth 32) ∧
    cfgToneSel (operands 2 0xFFFF).cfg = true ∧ (operands 2 0xFFFF).arg.toNat ≤ 0xFFFF ∧
    0xFFFF < (operands 2 0x10000).arg.toNat := by decide

theorem witness_TdecResult :
    cfgToneSel (operands 0 0).cfg = false ∧
    (operands 0 0).arg.extractLsb' 0 16 = tp.raw.noToneA1 ++ tp.raw.noToneA0 ∧
    (∃ e ∈ tp.raw.toneTableA, (operands 0 0x000C).arg.extractLsb' 0 16 = e.q ++ e.p) ∧
    ((operands 0 2).arg.extractLsb' 0 16 ≠ tp.raw.noToneA1 ++ tp.raw.noToneA0 ∧
      ∀ e ∈ tp.raw.toneTableA, (operands 0 2).arg.extractLsb' 0 16 ≠ e.q ++ e.p) ∧
    cfgToneSel (operands 2 0xABCD0375).cfg = true := by decide

theorem witness_GdecResult :
    cfgFlagSel (operands 0 0xEC).cfg = false ∧ (operands 0 0xEC).arg.toNat % 16 = 0xC ∧
    (operands 0 0xED).arg.toNat % 16 = 0xD ∧ ¬(operands 0 0xCE).arg.toNat % 16 = 0xC ∧
    ¬(operands 0 0xCE).arg.toNat % 16 = 0xD ∧ cfgFlagSel (operands 4 0xFF).cfg = true := by decide

theorem witness_FlagsEncodersAgreeAndInvert :
    0xEC ∈ ([0xCC, 0xCD, 0xDC, 0xDD, 0xEC, 0xED, 0xFC, 0xFD] : List Byte) := by decide

/-- E2: an unused entry with stale fields. -/
theorem witness_RencEmptySlotWritesSentinel :
    ((buffers 0x0F (writeEntry [] 0 { e5 with rxv := false, rxf := 1 })).mem.read
      (0x100 + 16 * (0 : SlotIx).val + 12)).getLsbD 0 = false := by decide +kernel

theorem witness_RencUsedSlotWritesRecord :
    (readEntry (buffers 0x0F table5).mem 4).rxv = true ∧
    firstEncodeError tp.raw 0x0F (readEntry (buffers 0x0F table5).mem 4) = none := by decide +kernel

theorem witness_RencRaisesFirstFailingField :
    firstEncodeError tp.raw 0 (readEntry (buffers 0 (tableBad 1 9999999)).mem 1) = some .rxf := by
  decide +kernel

/-- Byte 0 = 0xFF; and byte 5 = 0xFF with byte 0 = 3. -/
theorem witness_RdecEmptyRecordClearsEntry :
    (buffers 0 (writeRecord [] 2 (r3.set 0 0xFF))).mem.read (0x200 + 32 * (2 : SlotIx).val) = 0xFF ∧
    (buffers 0 (writeRecord [] 2 (r3.set 5 0xFF))).mem.read
      (0x200 + 32 * (2 : SlotIx).val + 5) = 0xFF := by decide +kernel

/-- A receive-only record and a duplex one. -/
theorem witness_RdecUsedRecordFillsEntry :
    (recordEmpty (readRecord (buffers 0 (writeRecord [] 2 r3)).mem 2) = false ∧
      firstDecodeError tp.raw 0 (readRecord (buffers 0 (writeRecord [] 2 r3)).mem 2) = none ∧
      recByte (readRecord (buffers 0 (writeRecord [] 2 r3)).mem 2) 9 = 0xFF) ∧
    (recordEmpty (readRecord (buffers 0x0F (writeRecord [] 4 r5)).mem 4) = false ∧
      firstDecodeError tp.raw 0x0F (readRecord (buffers 0x0F (writeRecord [] 4 r5)).mem 4) = none ∧
      recByte (readRecord (buffers 0x0F (writeRecord [] 4 r5)).mem 4) 9 ≠ 0xFF) := by decide +kernel

theorem witness_RdecRaisesFirstFailingField :
    firstDecodeError tp.raw 0 (readRecord (buffers 0 (writeRecord [] 3 r8)).mem 3) =
      some .flags := by decide +kernel

/-- The record of E6 and the same with another byte 0, step flag and reserved byte. -/
theorem witness_DecodeIgnoresSlotNumberAndReservedBytes :
    r3.length = 32 ∧ (((r3.set 0 7).set 10 9).set 31 0).length = 32 ∧ recByte r3 0 ≠ 0xFF ∧
    recByte (((r3.set 0 7).set 10 9).set 31 0) 0 ≠ 0xFF ∧
    ∀ k, decodeReads k = true →
      recByte r3 k = recByte (((r3.set 0 7).set 10 9).set 31 0) k := by
  refine ⟨by decide, by decide, by decide, by decide, fun k hk => ?_⟩
  have h : ∀ k : Fin 32, decodeReads k.val = true →
      recByte r3 k.val = recByte (((r3.set 0 7).set 10 9).set 31 0) k.val := by decide +kernel
  exact h ⟨k, by simp [decodeReads] at hk; omega⟩ hk

/-- A receive-only entry in Variant A, and a duplex one in Variant B. -/
theorem witness_RencThenRdecRestoresEntry :
    (e3 = readEntry (buffers 0 table3).mem 2 ∧ e3.rxv = true ∧
      firstEncodeError tp.raw 0 e3 = none ∧ cfgFreqSel 0 = false) ∧
    (e5 = readEntry (buffers 0x0F table5).mem 4 ∧ e5.rxv = true ∧
      firstEncodeError tp.raw 0x0F e5 = none ∧ cfgFreqSel 0x0F = true ∧
      e5.rxf.toNat % 100 = 0 ∧ e5.txv = true ∧ e5.txf.toNat % 100 = 0) := by decide +kernel

theorem witness_IencEncodesWholeTable :
    ∀ i : SlotIx, firstEncodeError tp.raw 0 (readEntry (buffers 0 table3).mem i) = none := by
  decide +kernel

/-- A table that fails at slot 2, field RXF, and an image that fails at slot 1, field FLAGS. -/
theorem witness_ImageCodecErrorWritesNothing :
    ((∀ j : SlotIx, j < 1 →
        firstEncodeError tp.raw 0 (readEntry (buffers 0 (tableBad 1 9999999)).mem j) = none) ∧
      firstEncodeError tp.raw 0 (readEntry (buffers 0 (tableBad 1 9999999)).mem 1) = some .rxf) ∧
    ((∀ j : SlotIx, j < 0 → firstDecodeError tp.raw 0 (readRecord (buffers 0 []).mem j) = none) ∧
      firstDecodeError tp.raw 0 (readRecord (buffers 0 []).mem 0) = some .flags) := by
  decide +kernel

theorem witness_IdecDecodesWholeImage :
    ∀ i : SlotIx, firstDecodeError tp.raw 0x05 (readRecord (buffers 0x05 []).mem i) = none := by
  decide +kernel

theorem witness_CodecCommandFrame :
    isCodec .ienc = true ∧ ∃ t, exec .ienc (buffers 0 table3) = .next t := ⟨rfl, _, rfl⟩

/-- The clauses one by one, the last with an error. -/
theorem witness_CodecCommandStores :
    (∃ t, exec .amask (buffers 0 table3) = .next t) ∧
    (∃ t, exec (.csum 15) (buffers 0 table3) = .next t) ∧
    (∃ t, exec (.renc 2) (buffers 0 table3) = .next t) ∧
    (∃ t, exec (.rdec 0) (buffers 0 table3) = .next t) ∧
    (∃ t, exec .ienc (buffers 0 table3) = .next t) ∧
    (∃ t, exec .idec (buffers 0 table3) = .next t) ∧
    ∃ t, exec .fenc (operands 0 0) = .next t ∧ t.status.err = true :=
  ⟨⟨_, rfl⟩, ⟨_, rfl⟩, ⟨_, rfl⟩, ⟨_, rfl⟩, ⟨_, rfl⟩, ⟨_, rfl⟩, _, rfl, by decide⟩

theorem witness_WrallEncodesThenStartsSession :
    ∀ i : SlotIx, firstEncodeError tp.raw 0x10 (readEntry (buffers 0x10 table3).mem i) = none := by
  decide +kernel

theorem witness_WrallEncodeErrorEndsBeforeOpen :
    (∀ j : SlotIx, j < 15 →
      firstEncodeError tp.raw 0 (readEntry (buffers 0 (tableBad 15 14652100)).mem j) = none) ∧
    firstEncodeError tp.raw 0 (readEntry (buffers 0 (tableBad 15 14652100)).mem 15) =
      some .rxstep := by decide +kernel

/-- A session under the parameters `p` at OPEN whose device answers the handshake rightly. -/
def opening (op : BitVec 8) (p : BlockParams) : State :=
  { session op .openLink .idle false 0 0 with
    params := p
    devQueue := handshakeAnswers p.raw 0 [] [] ++ [] }

/-- An RDALL session, and a WRALL session with RESP_LEN = 0. -/
theorem witness_HandshakeRuns :
    (atPhase (opening 0x20 tp) .openLink ∧
      (opening 0x20 tp).devQueue =
        handshakeAnswers (opening 0x20 tp).params.raw (opening 0x20 tp).k1s [] [] ++ []) ∧
    (atPhase (opening 0x21 tp0) .openLink ∧
      (opening 0x21 tp0).devQueue =
        handshakeAnswers (opening 0x21 tp0).params.raw (opening 0x21 tp0).k1s [] [] ++ []) :=
  ⟨⟨⟨rfl, rfl, rfl, rfl⟩, rfl⟩, ⟨rfl, rfl, rfl, rfl⟩, rfl⟩

/-- A state of a running session with DEV's next answers. -/
def devAnswers (q : List DevAnswer) (s : State) : State := { s with devQueue := q }

theorem witness_OpenUnavailableEndsSession :
    atPhase (devAnswers [.absent] (session 0x20 .openLink .idle false 0 0)) .openLink ∧
    (devAnswers [.absent] (session 0x20 .openLink .idle false 0 0)).devQueue = .absent :: [] :=
  ⟨⟨rfl, rfl, rfl, rfl⟩, rfl⟩

/-- A wrong LISTEN byte, and none. -/
theorem witness_ListenFailureOnlyTerminates :
    (atPhase (devAnswers [byteAnswer 0, .absent] (session 0x20 .listen .idle false 0 0)) .listen ∧
      (devAnswers [byteAnswer 0, .absent] (session 0x20 .listen .idle false 0 0)).devQueue =
        byteAnswer 0 :: .absent :: [] ∧
      oneByte (byteAnswer 0) ≠ some tp.raw.listenCode) ∧
    oneByte .absent ≠ some tp.raw.listenCode :=
  ⟨⟨⟨rfl, rfl, rfl, rfl⟩, rfl, by decide⟩, by decide⟩

/-- A read transaction of slot 1 right after the handshake, and of slot 16. -/
def reading (v : SessionState) (slot : Nat) : State :=
  devAnswers [.present [], .present [conf ^^^ tpRaw.k2]] (session 0x20 .readDesc v true slot (slot - 1))

theorem witness_ReadTransactionStoresRecord :
    (atPhase (reading .keyExchanged 1) .readDesc ∧ (reading .keyExchanged 1).seq.slot = 1 ∧
      (reading .keyExchanged 1).status.sstate = .keyExchanged ∧
      (reading .keyExchanged 1).devQueue =
        .present [] :: .present [conf ^^^ (reading .keyExchanged 1).params.raw.k2] :: []) ∧
    (atPhase (reading .active 16) .readDesc ∧ (reading .active 16).seq.slot = 16 ∧
      (reading .active 16).status.sstate = .active ∧
      (reading .active 16).devQueue =
        .present [] :: .present [conf ^^^ (reading .active 16).params.raw.k2] :: []) :=
  ⟨⟨⟨rfl, rfl, rfl, rfl⟩, rfl, rfl, rfl⟩, ⟨rfl, rfl, rfl, rfl⟩, rfl, rfl, rfl⟩

/-- A write transaction at its descriptor. -/
def writing (g : Target) (v : SessionState) (slot done : Nat) : State :=
  devAnswers [.present [conf ^^^ tpRaw.k2]] (session 0x21 (.writeDesc g) v true slot done)

/-- The scan-toggle write, the bitmask write, and the writes of slots 1 and 16. -/
theorem witness_WriteTransactionRuns :
    atPhase (writing .scanKey .keyExchanged 0 0) (.writeDesc .scanKey) ∧
    (writing .scanKey .keyExchanged 0 0).status.sstate = .keyExchanged ∧
    (writing .scanKey .keyExchanged 0 0).devQueue =
      .present [conf ^^^ (writing .scanKey .keyExchanged 0 0).params.raw.k2] :: [] ∧
    atPhase (writing .mask .active 0 0) (.writeDesc .mask) ∧
    (writing .mask .active 0 0).status.sstate = .active ∧
    atPhase (writing .slot .active 1 0) (.writeDesc .slot) ∧
    (writing .slot .active 1 0).seq.slot = 1 ∧
    atPhase (writing .slot .active 16 15) (.writeDesc .slot) ∧
    (writing .slot .active 16 15).seq.slot = 16 :=
  ⟨⟨rfl, rfl, rfl, rfl⟩, rfl, rfl, ⟨rfl, rfl, rfl, rfl⟩, rfl, ⟨rfl, rfl, rfl, rfl⟩, rfl,
    ⟨rfl, rfl, rfl, rfl⟩, rfl⟩

/-- A wrong byte, and none, at slot 5's check; no answer at IDENT, at RESP and at slot 5's data block. -/
theorem witness_FailedReadFailsSession :
    ((devAnswers [byteAnswer 0] (session 0x20 .readCheck .active true 5 4)).hostQueue = [] ∧
      (devAnswers [byteAnswer 0] (session 0x20 .readCheck .active true 5 4)).status.busy = true ∧
      checkOf (devAnswers [byteAnswer 0] (session 0x20 .readCheck .active true 5 4)) .readCheck =
        some (0x5A, .slotAck, 5) ∧
      (devAnswers [byteAnswer 0] (session 0x20 .readCheck .active true 5 4)).devQueue =
        byteAnswer 0 :: [] ∧
      (oneByte (byteAnswer 0)).map (· ^^^ 0x5A) ≠ some 0x06 ∧
      (oneByte .absent).map (· ^^^ 0x5A) ≠ some 0x06) ∧
    ((devAnswers [.absent] (session 0x20 .readData .active true 5 4)).hostQueue = [] ∧
      (devAnswers [.absent] (session 0x20 .readData .active true 5 4)).status.busy = true ∧
      (devAnswers [.absent] (session 0x20 .readData .active true 5 4)).devQueue = .absent :: [] ∧
      readOf (devAnswers [.absent] (session 0x20 .readData .active true 5 4)) .readData =
        some (32, .slotData, 5) ∧
      readOf (session 0x20 .ident .listening true 0 0) .ident = some (40, .hsIdent, 0) ∧
      readOf (session 0x20 .resp .listening true 0 0) .resp = some (3, .hsResp, 0)) := by decide

/-- A session that failed at LISTEN, at the END byte. -/
def failedSession : State :=
  { session 0x20 .termSend .failed false 0 0 with
    seq := { (session 0x20 .termSend .failed false 0 0).seq with
      error := some (timeoutFailure .hsListen 0 0x16) }
    devQueue := [.absent] }

theorem witness_FailurePathReportsFirstError :
    atPhase failedSession .termSend ∧
    failedSession.seq.error = some (timeoutFailure .hsListen 0 0x16) ∧
    failedSession.devQueue = .absent :: [] := ⟨⟨rfl, rfl, rfl, rfl⟩, rfl, rfl⟩

/-- The termination check answered rightly, and not answered. -/
theorem witness_SuccessPathChecksTermination :
    atPhase (devAnswers [byteAnswer 0x5C] (session 0x20 .termSend .terminated true 0 16)) .termSend ∧
    (devAnswers [byteAnswer 0x5C] (session 0x20 .termSend .terminated true 0 16)).seq.error = none ∧
    (devAnswers [byteAnswer 0x5C] (session 0x20 .termSend .terminated true 0 16)).devQueue =
      byteAnswer 0x5C :: [] ∧
    (oneByte (byteAnswer 0x5C)).map (· ^^^ tp.raw.k2) = some 0x06 ∧
    (oneByte .absent).map (· ^^^ tp.raw.k2) ≠ some 0x06 :=
  ⟨⟨rfl, rfl, rfl, rfl⟩, rfl, rfl, by decide, by decide⟩

/-- A write session at the check of slot 9, answered 00. -/
def ninth : State :=
  devAnswers [.present [0], .absent] (session 0x21 (.writeCheck .slot) .active true 9 8)

theorem witness_NinthSlotCheckFailureEndsWriteSession :
    atPhase ninth (.writeCheck .slot) ∧ ninth.seq.slot = 9 ∧ ninth.seq.doneSlots = 8 ∧
    ninth.devQueue = .present [0] :: .absent :: [] ∧
    ([0] : List Byte).getD 0 0 ^^^ ninth.params.raw.k2 ≠ 0x06 :=
  ⟨⟨rfl, rfl, rfl, rfl⟩, rfl, rfl, rfl, by decide⟩

/-- A consistent running session at a check, for the statements about every running session. -/
theorem witness_OneTransportEventPerStep :
    (session 0x20 .readCheck .active true 5 4).consistent = true ∧
    (session 0x20 .readCheck .active true 5 4).status.busy = true ∧
    (session 0x20 .readCheck .active true 5 4).seqTurn = true ∧
    (hostDoes .poll (session 0x20 .readCheck .active true 5 4)).consistent = true ∧
    (hostDoes .poll (session 0x20 .readCheck .active true 5 4)).seqTurn = true ∧
    (hostDoes .wait (session 0x20 .readCheck .active true 5 4)).seqTurn = true := by decide +kernel

/-- The first byte of the program-request frame. -/
theorem witness_SentByteIsTheFramesNextByte :
    (session 0x20 .progReq .idle false 0 0).consistent = true ∧
    (session 0x20 .progReq .idle false 0 0).status.busy = true ∧
    (session 0x20 .progReq .idle false 0 0).seqTurn = true ∧
    ∃ t, step (session 0x20 .progReq .idle false 0 0) = .next t ∧
      t.trace = (session 0x20 .progReq .idle false 0 0).trace ++ [.tx 0xA0] :=
  ⟨by decide +kernel, rfl, rfl, _, rfl, by decide +kernel⟩

/-- The step that raises the rate, and the step that becomes Listening. -/
theorem witness_BaudRaisedOnlyAfterListen :
    ((session 0x20 .baud .listening false 0 0).consistent = true ∧
      (session 0x20 .baud .listening false 0 0).seqTurn = true ∧
      ∃ t, step (session 0x20 .baud .listening false 0 0) = .next t ∧
        t.trace = [] ++ [.baud 2]) ∧
    ((devAnswers [byteAnswer 0x16] (session 0x20 .listen .idle false 0 0)).consistent = true ∧
      (devAnswers [byteAnswer 0x16] (session 0x20 .listen .idle false 0 0)).seqTurn = true ∧
      (devAnswers [byteAnswer 0x16] (session 0x20 .listen .idle false 0 0)).status.sstate ≠
        .listening ∧
      ∃ t, step (devAnswers [byteAnswer 0x16] (session 0x20 .listen .idle false 0 0)) = .next t ∧
        t.status.sstate = .listening) :=
  ⟨⟨by decide +kernel, rfl, _, rfl, by decide +kernel⟩, by decide +kernel, rfl, by decide, _, rfl,
    by decide +kernel⟩

/-- Slot 1's write, HOST waiting once and then polling. -/
def polled : State :=
  { session 0x21 (.writeDesc .slot) .active true 1 0 with hostQueue := [.wait, .poll] }

theorem witness_EverySessionEnds :
    polled.consistent = true ∧ polled.status.busy = true ∧
    (∀ a ∈ polled.hostQueue, a = .poll ∨ a = .wait) ∧ Event.close ∉ polled.trace ∧
    polled.status.link = true := by decide +kernel

/-- `idle` in the step that starts the session command `op`, with DEV's answers `q`. -/
def starting (op : BitVec 8) (q : List DevAnswer) : State :=
  { idle with seq := { Seq.reset with op := some op }, devQueue := q }

/-- `idle` in the step that starts RDALL: a device whose sixteen records are that of E6. -/
def rdallStart : State :=
  starting 0x20 (handshakeAnswers tpRaw 0 [] [] ++
    (allSlots.map fun _ => [DevAnswer.present r3, .present [conf ^^^ tpRaw.k2]]).flatten ++
    [.present [conf ^^^ tpRaw.k2]] ++ [])

theorem witness_RdallReadsAllSixteenRecords :
    (∃ t, exec .rdall rdallStart = .next t ∧ t.k1s = 0) ∧
    rdallStart.hostQueue = [] ∧ rdallStart.seq.op = some 0x20 ∧
    rdallStart.devQueue = handshakeAnswers rdallStart.params.raw 0 [] [] ++
      (allSlots.map fun _ =>
        [DevAnswer.present r3, .present [conf ^^^ rdallStart.params.raw.k2]]).flatten ++
      [.present [conf ^^^ rdallStart.params.raw.k2]] ++ [] :=
  ⟨⟨_, rfl, by decide +kernel⟩, rfl, rfl, by decide +kernel⟩

/-- `idle` in the step that starts WRALL: a legacy session over the empty table. -/
def wrallStart : State :=
  starting 0x21 (handshakeAnswers tpRaw 0 [] [] ++
    List.replicate 19 (.present [conf ^^^ tpRaw.k2]) ++ [])

theorem witness_WrallWritesAllSixteenRecords :
    (∃ t, exec .wrall wrallStart = .next t ∧ t.status.busy = true ∧ t.k1s = 0) ∧
    wrallStart.hostQueue = [] ∧ wrallStart.seq.op = some 0x21 ∧
    wrallStart.devQueue = handshakeAnswers wrallStart.params.raw 0 [] [] ++
      List.replicate (if cfgPvar wrallStart.cfg then 18 else 19)
        (DevAnswer.present [conf ^^^ wrallStart.params.raw.k2]) ++ [] :=
  ⟨⟨_, rfl, by decide +kernel, by decide +kernel⟩, rfl, rfl, by decide +kernel⟩

theorem witness_SlotAddressesAscendWithoutWrap :
    1 ≤ 1 ∧ 1 ≤ 16 ∧ 15 < 16 ∧ ¬16 < 16 ∧
    (slotAddr tp0.raw 16).toNat = 0xFFE0 := by decide

/-- A reset in the middle of a session. -/
theorem witness_ResetInputAbortsSession :
    (hostDoes .reset (session 0x20 .readCheck .active true 5 4)).hostQueue = .reset :: [] := by
  decide

theorem witness_StepKeepsConsistent :
    (session 0x20 .readCheck .active true 5 4).consistent = true ∧
    ∃ t, step (session 0x20 .readCheck .active true 5 4) = .next t := ⟨by decide +kernel, _, rfl⟩

/-- Slot 5's check, answered rightly with the record of E6 staged. -/
def staged : State :=
  { session 0x20 .readCheck .active true 5 4 with devQueue := [byteAnswer 0x5C], stage := r3 }

/-- A step in which IMG is written. -/
theorem witness_SessionStepFrame :
    staged.consistent = true ∧ staged.status.busy = true ∧ staged.seqTurn = true ∧
    ∃ t, step staged = .next t ∧
      t.mem.read (imgAddrOf 5) ≠ staged.mem.read (imgAddrOf 5) :=
  ⟨by decide +kernel, rfl, rfl, _, rfl, by decide +kernel⟩

end Sys2Proof.Tests
end

