-- ==== Sys2Proof/Proofs/TransportEvents.lean ====
section
/-! SUPPORT. Which of the sequencer's operations perform a transport event and which leave the trace
alone; every step of a running session performs exactly one (R3, R135). -/

namespace Sys2Proof.Machine

open Sys2Proof.Config

/-! ## What a consistent running session says of the sequencer -/

/-- A consistent state whose command is running is one of a running session. -/
theorem sessionOk_of_consistent {s : State} (hc : s.consistent = true)
    (hb : s.status.busy = true) : s.sessionOk = true := by
  simp only [State.consistent, hb, if_true, Bool.and_eq_true] at hc
  exact hc.2

/-- The frame under way in a running session has a byte left to send. -/
theorem sent_lt_of_sessionOk {s : State} (h : s.sessionOk = true)
    (hp : s.seq.phase.sends = true) : s.seq.sent < (s.frame s.seq.phase).length := by
  simp only [State.sessionOk, Bool.and_eq_true] at h
  obtain ⟨⟨_, hsent⟩, _⟩ := h
  simpa [State.sentOk, hp] using hsent

/-- A running session is at one of the sequence's steps, never between commands. -/
theorem phase_ne_idle_of_sessionOk {s : State} (h : s.sessionOk = true) :
    s.seq.phase ≠ .idle := by
  intro hp
  simp [State.sessionOk, State.phaseOk, hp] at h

/-! ## Operations between two events: the trace stays -/

@[simp] theorem activate_trace (s : State) : s.activate.trace = s.trace := by
  rcases activate_cases s with ⟨_, h⟩ | ⟨_, h⟩ <;> rw [h]
  exact setSession_trace s .active

@[simp] theorem activate_seq (s : State) : s.activate.seq = s.seq := by
  rcases activate_cases s with ⟨_, h⟩ | ⟨_, h⟩ <;> rw [h]
  exact setSession_seq s .active

@[simp] theorem activate_frame (s : State) (p : SeqPhase) : s.activate.frame p = s.frame p := by
  rcases activate_cases s with ⟨_, h⟩ | ⟨_, h⟩ <;> rw [h]
  exact frame_congr rfl rfl rfl rfl rfl p

@[simp] theorem firstTransaction_trace (s : State) : s.firstTransaction.trace = s.trace := by
  unfold State.firstTransaction
  split <;> rfl

@[simp] theorem nextSlot_trace (s : State) (p : SeqPhase) : (s.nextSlot p).trace = s.trace := by
  rcases nextSlot_cases s p with ⟨_, h⟩ | ⟨_, h⟩ <;> rw [h]

@[simp] theorem commitRead_trace (s : State) : s.commitRead.trace = s.trace := by
  simp [State.commitRead]

@[simp] theorem commitWrite_trace (s : State) (g : Target) :
    (s.commitWrite g).trace = s.trace := by
  cases g with
  | scanKey => simp only [State.commitWrite]; split <;> rfl
  | mask => rfl
  | slot => simp [State.commitWrite]

/-! ## The operations that perform an event -/

theorem sendFrame_emits {s : State} {p : SeqPhase} (h : s.seq.sent < (s.frame p).length) :
    ∃ ev, (s.sendFrame p).trace = s.trace ++ [ev] := by
  rcases sendFrame_cases s p with ⟨b, _, _, he⟩ | ⟨b, _, _, he⟩ | ⟨hle, _⟩
  · exact ⟨.tx b, by rw [he]⟩
  · exact ⟨.tx b, by rw [he]⟩
  · omega

/-- A descriptor's byte: SSTATE <- Active comes first and changes neither frame nor trace (R131). -/
theorem activate_sendFrame_emits {s : State} {p : SeqPhase}
    (h : s.seq.sent < (s.frame p).length) :
    ∃ ev, (s.activate.sendFrame p).trace = s.trace ++ [ev] := by
  simpa using sendFrame_emits (s := s.activate) (p := p) (by simpa using h)

theorem check_emits (s : State) (key : Byte) (ph : ErrPhase) (slot : Nat) {pass : State → State}
    (hp : ∀ t : State, (pass t).trace = t.trace) :
    ∃ ev, (s.check key ph slot pass).trace = s.trace ++ [ev] := by
  refine ⟨.rx 1 (s.rxAnswer 1), ?_⟩
  rcases check_cases s key ph slot pass with ⟨_, _, _, h⟩ | ⟨_, h⟩ | ⟨_, _, _, h⟩ <;>
    simp [h, hp]

theorem receive_emits (s : State) (n : Nat) (ph : ErrPhase) (slot : Nat)
    {pass : List Byte → State → State} (hp : ∀ d (t : State), (pass d t).trace = t.trace) :
    ∃ ev, (s.receive n ph slot pass).trace = s.trace ++ [ev] := by
  refine ⟨.rx n (s.rxAnswer n), ?_⟩
  rcases receive_cases s n ph slot pass with ⟨_, _, h⟩ | ⟨_, h⟩ <;> simp [h, hp]

theorem stepOpen_emits (s : State) : ∃ ev, s.stepOpen.trace = s.trace ++ [ev] := by
  refine ⟨.openLink s.openAnswer, ?_⟩
  rcases stepOpen_cases s with ⟨ha, h⟩ | ⟨ha, h⟩ <;> simp [h, ha]

theorem stepListen_emits (s : State) : ∃ ev, s.stepListen.trace = s.trace ++ [ev] := by
  refine ⟨.rx 1 (s.rxAnswer 1), ?_⟩
  rcases stepListen_cases s with ⟨_, _, _, h⟩ | ⟨_, h⟩ | ⟨_, _, _, h⟩ <;> simp [h]

theorem stepTermCheck_emits (s : State) : ∃ ev, s.stepTermCheck.trace = s.trace ++ [ev] := by
  refine ⟨.rx 1 (s.rxAnswer 1), ?_⟩
  rcases stepTermCheck_cases s with ⟨_, h⟩ | ⟨_, _, _, _, h⟩ | ⟨_, _, _, h⟩ <;> simp [h]

theorem stepTermClose_emits (s : State) : ∃ ev, s.stepTermClose.trace = s.trace ++ [ev] := by
  refine ⟨.close, ?_⟩
  rcases stepTermClose_cases s with ⟨_, _, h⟩ | ⟨_, h⟩ <;> simp [h]

/-! ## One step of SEQ -/

/-- A step of SEQ performs one event, at every phase of the sequence: a sending phase as long as its
frame has a byte left, any other by itself. -/
theorem seqPhase_emits {s : State} {p : SeqPhase} (hidle : p ≠ .idle)
    (hsend : p.sends = true → s.seq.sent < (s.frame p).length) :
    ∃ ev, (s.seqPhase p).trace = s.trace ++ [ev] := by
  cases p
  case idle => exact absurd rfl hidle
  case openLink => exact stepOpen_emits s
  case listen => exact stepListen_emits s
  case baud => exact ⟨.baud s.par.baudHigh, rfl⟩
  case echo0 | conf1Echo => exact check_emits s _ _ _ fun _ => rfl
  case conf2Echo =>
    exact check_emits s _ _ _ fun t => firstTransaction_trace (t.setSession .keyExchanged)
  case readCheck => exact check_emits s _ _ _ commitRead_trace
  case writeCheck g => exact check_emits s _ _ _ (commitWrite_trace · g)
  case ident | resp | readData => exact receive_emits s _ _ _ fun _ _ => rfl
  case readDesc | writeDesc => exact activate_sendFrame_emits (hsend rfl)
  case termCheck => exact stepTermCheck_emits s
  case termClose => exact stepTermClose_emits s
  case progReq | verReq | keySend | conf1 | mark | conf2 | readAck | writeData | writeSum
      | termSend =>
    exact sendFrame_emits (hsend rfl)

/-- Settles O47: the step is SEQ's (`step_seqTurn`), and the invariant gives a phase of the sequence
with, where it sends, a byte left in its frame. -/
theorem oneTransportEventPerStep : Obligations.OneTransportEventPerStep := by
  intro s hc hb ht
  have hs : s.sessionOk = true := sessionOk_of_consistent hc hb
  obtain ⟨rest, hstep⟩ := step_seqTurn ht hb
  obtain ⟨ev, hev⟩ := seqPhase_emits (phase_ne_idle_of_sessionOk hs) (sent_lt_of_sessionOk hs)
  exact ⟨_, ev, hstep, hev⟩

end Sys2Proof.Machine
end

/-! SUPPORT. The layout of the STATUS and ERRINFO words (R13, R14): each is a concatenation of its
fields, so a bit of the word is a bit of the field that stands there. -/

namespace Sys2Proof.Machine

/-- A field of a word is known by its bits. -/
theorem extractLsb'_eq_of_getLsbD {n k m : Nat} {w : BitVec n} {v : BitVec m}
    (h : ∀ i, i < m → w.getLsbD (k + i) = v.getLsbD i) : w.extractLsb' k m = v :=
  BitVec.eq_of_getLsbD_eq fun i hi => by
    rw [BitVec.getLsbD_extractLsb', decide_eq_true hi, Bool.true_and, h i hi]

/-- The bits of the STATUS word (R13), by the codes that the model gives its fields. -/
theorem status_toWord_bits (st : Status) :
    st.toWord.getLsbD 0 = st.busy ∧ st.toWord.getLsbD 1 = st.done ∧
    st.toWord.getLsbD 2 = st.err ∧ st.toWord.getLsbD 3 = st.termFail ∧
    (∀ i, i < 4 → st.toWord.getLsbD (4 + i) = (ecodeField st.ecode).getLsbD i) ∧
    (∀ i, i < 3 → st.toWord.getLsbD (8 + i) = st.sstate.code.getLsbD i) ∧
    st.toWord.getLsbD 11 = st.link ∧ st.toWord.getLsbD 12 = st.baudHi ∧
    ∀ i, st.toWord.getLsbD (13 + i) = false := by
  unfold Status.toWord
  simp only [BitVec.getLsbD_append, BitVec.getLsbD_ofBool, BitVec.getLsbD_zero, Nat.sub_sub]
  refine ⟨rfl, rfl, rfl, rfl, ?ecode, ?sstate, rfl, rfl, ?reserved⟩
  case ecode => intro i hi; grind
  case sstate => intro i hi; grind
  case reserved => intro i; grind

/-- The bits of the ERRINFO word (R14), by the codes that the model gives its fields. -/
theorem errInfo_toWord_bits (e : ErrInfo) :
    (∀ i, i < 8 → e.toWord.getLsbD (0 + i) = e.exp.getLsbD i) ∧
    (∀ i, i < 8 → e.toWord.getLsbD (8 + i) = e.act.getLsbD i) ∧
    (∀ i, i < 5 → e.toWord.getLsbD (16 + i) = e.slot.getLsbD i) ∧
    (∀ i, i < 3 → e.toWord.getLsbD (21 + i) = e.field.code.getLsbD i) ∧
    (∀ i, i < 4 → e.toWord.getLsbD (24 + i) = e.phase.code.getLsbD i) ∧
    ∀ i, e.toWord.getLsbD (28 + i) = false := by
  unfold ErrInfo.toWord
  simp only [BitVec.getLsbD_append, BitVec.getLsbD_zero, Nat.sub_sub]
  refine ⟨?exp, ?act, ?slot, ?field, ?phase, ?reserved⟩
  case exp | act | slot | field | phase => intro i hi; grind
  case reserved => intro i; grind

/-- Settles O55: each field is known by its bits, and the codes are those of the tables, value by
value. -/
theorem statusAndErrInfoWordFields : Obligations.StatusAndErrInfoWordFields := by
  refine ⟨fun st => ?_, fun e => ?_⟩
  · obtain ⟨hbusy, hdone, herr, hterm, hecode, hsstate, hlink, hbaud, hzero⟩ :=
      status_toWord_bits st
    refine ⟨hbusy, hdone, herr, hterm, (extractLsb'_eq_of_getLsbD hecode).trans ?_,
      (extractLsb'_eq_of_getLsbD hsstate).trans ?_, hlink, hbaud,
      extractLsb'_eq_of_getLsbD fun i _ => (hzero i).trans BitVec.getLsbD_zero.symm⟩
    · rcases st.ecode with _ | k
      · rfl
      · cases k <;> rfl
    · cases st.sstate <;> rfl
  · obtain ⟨hexp, hact, hslot, hfield, hphase, hzero⟩ := errInfo_toWord_bits e
    refine ⟨extractLsb'_eq_of_getLsbD hexp, extractLsb'_eq_of_getLsbD hact,
      extractLsb'_eq_of_getLsbD hslot, (extractLsb'_eq_of_getLsbD hfield).trans ?_,
      (extractLsb'_eq_of_getLsbD hphase).trans ?_,
      extractLsb'_eq_of_getLsbD fun i _ => (hzero i).trans BitVec.getLsbD_zero.symm⟩
    · cases e.field <;> rfl
    · cases e.phase <;> rfl

end Sys2Proof.Machine

/-! SUPPORT. What a running session keeps from step to step: HOST's registers, the latched copies,
the buffers (but for the record that a read transaction writes) and the flags of an unfinished
command. -/

namespace Sys2Proof.Machine

open Sys2Proof.Config

/-! ## The parts of the state that a session keeps -/

/-- What HOST configured or last read, the latched copies and the two buffers. -/
structure HostSide where
  params : BlockParams
  cmd : Word
  arg : Word
  cfg : BitVec 5
  key1 : Byte
  latchedCfg : BitVec 5
  latchedKey1 : Byte
  actMask : BitVec 16
  hostData : Word
  mem : Memory

/-- With them, what stays as it is while the session goes on: the result registers, the session's
key, the opcode and the flags of the command. -/
structure SessionConstants where
  host : HostSide
  res : Word
  errInfo : ErrInfo
  k1s : Byte
  op : Option (BitVec 8)
  busy : Bool
  done : Bool
  err : Bool
  ecode : Option ErrorKind

/-- HOST's side of a state. -/
def State.hostSide (s : State) : HostSide :=
  { params := s.params, cmd := s.cmd, arg := s.arg, cfg := s.cfg, key1 := s.key1,
    latchedCfg := s.latchedCfg, latchedKey1 := s.latchedKey1, actMask := s.actMask,
    hostData := s.hostData, mem := s.mem }

/-- A state's session constants. -/
def State.constants (s : State) : SessionConstants :=
  { host := s.hostSide, res := s.res, errInfo := s.errInfo, k1s := s.k1s, op := s.seq.op,
    busy := s.status.busy, done := s.status.done, err := s.status.err, ecode := s.status.ecode }

/-- IMG[s] <- STAGE, the one write to the buffers in a session (R139). -/
def State.stageStored (s : State) : State :=
  { s with mem := s.mem.writeBytes (imgAddrOf s.seq.slot) s.stage }

theorem commitRead_eq (s : State) :
    s.commitRead = s.stageStored.countSlot.nextSlot .readDesc := rfl

/-! ## The sequencer's operations keep them -/

@[simp] theorem goto_constants (s : State) (p : SeqPhase) :
    (s.goto p).constants = s.constants := rfl
@[simp] theorem setSession_constants (s : State) (v : SessionState) :
    (s.setSession v).constants = s.constants := rfl
@[simp] theorem setSlot_constants (s : State) (n : Nat) :
    (s.setSlot n).constants = s.constants := rfl
@[simp] theorem countSlot_constants (s : State) : s.countSlot.constants = s.constants := rfl
@[simp] theorem fail_constants (s : State) (f : Failure) :
    (s.fail f).constants = s.constants := rfl
@[simp] theorem emit_constants (s : State) (e : Event) :
    (s.emit e).constants = s.constants := rfl

/-- The using up of an answer touches the agents outside the block alone. -/
theorem answered_eq (s : State) : ∃ q d, s.answered = { s with devQueue := q, draws := d } := by
  unfold State.answered
  split <;> exact ⟨_, _, rfl⟩

/-- An RX touches the agents outside the block and the trace alone. -/
theorem afterRx_eq (s : State) (n : Nat) : ∃ q d e,
    s.afterRx n = { s with devQueue := q, draws := d, trace := e } := by
  obtain ⟨q, d, h⟩ := answered_eq s
  exact ⟨q, d, _, by rw [State.afterRx, h]; rfl⟩

@[simp] theorem answered_constants (s : State) : s.answered.constants = s.constants := by
  obtain ⟨_, _, h⟩ := answered_eq s
  rw [h]
  rfl

@[simp] theorem afterRx_constants (s : State) (n : Nat) :
    (s.afterRx n).constants = s.constants := by
  simp [State.afterRx]

@[simp] theorem activate_constants (s : State) : s.activate.constants = s.constants := by
  rcases activate_cases s with ⟨_, h⟩ | ⟨_, h⟩ <;> simp [h]

@[simp] theorem sendFrame_constants (s : State) (p : SeqPhase) :
    (s.sendFrame p).constants = s.constants := by
  rcases sendFrame_cases s p with ⟨_, _, _, h⟩ | ⟨_, _, _, h⟩ | ⟨_, h⟩ <;> rw [h] <;> rfl

@[simp] theorem firstTransaction_constants (s : State) :
    s.firstTransaction.constants = s.constants := by
  unfold State.firstTransaction
  split <;> rfl

@[simp] theorem nextSlot_constants (s : State) (p : SeqPhase) :
    (s.nextSlot p).constants = s.constants := by
  rcases nextSlot_cases s p with ⟨_, h⟩ | ⟨_, h⟩ <;> rw [h] <;> rfl

@[simp] theorem commitRead_constants (s : State) :
    s.commitRead.constants = s.stageStored.constants := by
  simp [commitRead_eq]

@[simp] theorem commitWrite_constants (s : State) (g : Target) :
    (s.commitWrite g).constants = s.constants := by
  cases g with
  | scanKey => simp only [State.commitWrite]; split <;> rfl
  | mask => rfl
  | slot => simp [State.commitWrite]

theorem check_constants (s : State) (key : Byte) (ph : ErrPhase) (slot : Nat)
    {pass : State → State} (hpass : ∀ t : State, (pass t).constants = t.constants) :
    (s.check key ph slot pass).constants = s.constants := by
  rcases check_cases s key ph slot pass with ⟨_, _, _, h⟩ | ⟨_, h⟩ | ⟨_, _, _, h⟩ <;>
    simp [h, hpass]

theorem receive_constants (s : State) (n : Nat) (ph : ErrPhase) (slot : Nat)
    {pass : List Byte → State → State}
    (hpass : ∀ d (t : State), (pass d t).constants = t.constants) :
    (s.receive n ph slot pass).constants = s.constants := by
  rcases receive_cases s n ph slot pass with ⟨_, _, h⟩ | ⟨_, h⟩ <;> simp [h, hpass]

theorem stepOpen_constants {s : State} (ha : s.openAnswer = true) :
    s.stepOpen.constants = s.constants := by
  rcases stepOpen_cases s with ⟨_, h⟩ | ⟨hn, _⟩
  · obtain ⟨_, _, ha⟩ := answered_eq s
    rw [h, ha]
    rfl
  · rw [ha] at hn; cases hn

@[simp] theorem stepListen_constants (s : State) : s.stepListen.constants = s.constants := by
  rcases stepListen_cases s with ⟨_, _, _, h⟩ | ⟨_, h⟩ | ⟨_, _, _, h⟩ <;> simp [h]

@[simp] theorem stepTermCheck_constants (s : State) : s.stepTermCheck.constants = s.constants := by
  rcases stepTermCheck_cases s with ⟨_, h⟩ | ⟨_, _, _, _, h⟩ | ⟨_, _, _, h⟩
  · simp [h]
  · rw [h, goto_constants]
    obtain ⟨_, _, _, hrx⟩ := afterRx_eq s 1
    rw [hrx]
    rfl
  · rw [h, goto_constants]
    obtain ⟨_, _, _, hrx⟩ := afterRx_eq s 1
    rw [hrx]
    rfl

/-! ## One step of SEQ -/

/-- A step that does not end the session keeps its constants, but for the record that a read
transaction's check writes to IMG (R41, R43, R139). -/
theorem seqPhase_constants {s : State} {p : SeqPhase} (hopen : p = .openLink → s.openAnswer = true)
    (hclose : p ≠ .termClose) (hread : p ≠ .readCheck) :
    (s.seqPhase p).constants = s.constants := by
  cases p
  case termClose => exact absurd rfl hclose
  case readCheck => exact absurd rfl hread
  case idle | baud => rfl
  case openLink => exact stepOpen_constants (hopen rfl)
  case listen => exact stepListen_constants s
  case termCheck => exact stepTermCheck_constants s
  case echo0 | conf1Echo => exact check_constants s _ _ _ fun _ => rfl
  case conf2Echo =>
    exact check_constants s _ _ _ fun t => firstTransaction_constants (t.setSession .keyExchanged)
  case writeCheck g => exact check_constants s _ _ _ (commitWrite_constants · g)
  case ident | resp | readData => exact receive_constants s _ _ _ fun _ _ => rfl
  case readDesc | writeDesc => exact (sendFrame_constants _ _).trans (activate_constants s)
  case progReq | verReq | keySend | conf1 | mark | conf2 | readAck | writeData | writeSum
      | termSend =>
    exact sendFrame_constants s _

/-- The check of a read transaction stores STAGE or nothing. -/
theorem readCheck_constants (s : State) :
    (s.seqPhase .readCheck).constants = s.constants ∨
    (s.seqPhase .readCheck).constants = s.stageStored.constants := by
  have hrx : (s.afterRx 1).stageStored.constants = s.stageStored.constants := by
    obtain ⟨_, _, _, hrx⟩ := afterRx_eq s 1
    rw [hrx]
    rfl
  rcases check_cases s s.par.k2 .slotAck s.seq.slot (·.commitRead) with
    ⟨_, _, _, h⟩ | ⟨_, h⟩ | ⟨_, _, _, h⟩
  · exact .inr (by simp [State.seqPhase, h, hrx])
  · exact .inl (by simp [State.seqPhase, h])
  · exact .inl (by simp [State.seqPhase, h])

/-- CLOSE ends the command. -/
theorem stepTermClose_busy (s : State) : s.stepTermClose.status.busy = false := by
  rcases stepTermClose_cases s with ⟨_, _, h⟩ | ⟨_, h⟩ <;> simp [h]

/-- So does an OPEN that DEV does not answer with OK. -/
theorem openAnswer_of_busy {s : State} (hb : s.stepOpen.status.busy = true) :
    s.openAnswer = true := by
  rcases stepOpen_cases s with ⟨ha, _⟩ | ⟨_, h⟩
  · exact ha
  · simp [h] at hb

/-- Every step but a read transaction's check leaves HOST's side alone, the session's last step
among them. -/
theorem seqPhase_hostSide {s : State} {p : SeqPhase} (hread : p ≠ .readCheck) :
    (s.seqPhase p).hostSide = s.hostSide := by
  by_cases hclose : p = .termClose
  · subst hclose
    rcases stepTermClose_cases s with ⟨_, _, h⟩ | ⟨_, h⟩ <;> simp only [State.seqPhase, h] <;> rfl
  by_cases hopen : p = .openLink → s.openAnswer = true
  · exact congrArg SessionConstants.host (seqPhase_constants hopen hclose hread)
  · obtain ⟨rfl, ha⟩ := Classical.not_imp.1 hopen
    rcases stepOpen_cases s with ⟨h, _⟩ | ⟨_, h⟩
    · exact absurd h ha
    · obtain ⟨_, _, hs⟩ := answered_eq s
      simp only [State.seqPhase, h, hs]
      rfl

end Sys2Proof.Machine

/-! SUPPORT. The invariant of a running session, taken apart into what stays during the session and
what the present phase asks, and kept by every step of SEQ. -/

namespace Sys2Proof.Machine

open Sys2Proof.Config

/-! ## The invariant taken apart -/

/-- What a consistent running session says of its constants: the buffers are canonical, and a
session command is executing, neither done nor in error, with the key of its latched configuration
(R50, R115). -/
structure SessionConstants.Running (c : SessionConstants) : Prop where
  mem : c.host.mem.wf = true
  busy : c.busy = true
  done : c.done = false
  err : c.err = false
  ecode : c.ecode = none
  errInfo : c.errInfo = ErrInfo.clear
  op : c.op = some Instr.rdall.op ∨ c.op = some Instr.wrall.op
  key : c.k1s = sessionKey c.host.latchedCfg c.host.latchedKey1

/-- A consistent state in a running session (`inSession_iff`), as propositions by name. -/
structure State.InSession (s : State) : Prop where
  running : s.constants.Running
  stage : s.stage.length = 32
  link : s.status.link = (s.seq.phase != .openLink)
  termFail : s.status.termFail = true → s.seq.phase = .termClose ∧ s.status.sstate = .failed
  sent : s.sentOk = true
  phase : s.phaseOk = true

theorem inSession_iff (s : State) :
    s.InSession ↔ s.consistent = true ∧ s.status.busy = true := by
  constructor
  · rintro ⟨⟨hmem, hbusy, hdone, herr, hecode, hinfo, hop, hkey⟩, hstage, hlink, hterm, hsent,
      hphase⟩
    simp only [State.constants, State.hostSide] at hmem hbusy hdone herr hecode hinfo hop hkey
    refine ⟨?_, hbusy⟩
    have hstatus : s.status.termFail = false ∨ s.status.sstate = .failed := by
      cases ht : s.status.termFail
      · exact .inl rfl
      · exact .inr (hterm ht).2
    have hclose : s.status.termFail = false ∨ s.seq.phase = .termClose := by
      cases ht : s.status.termFail
      · exact .inl rfl
      · exact .inr (hterm ht).1
    simp [State.consistent, State.buffersOk, State.statusOk, State.sessionOk, hmem, hstage, hbusy,
      hdone, herr, hecode, hinfo, hop, hkey, hlink, hsent, hphase, hstatus, hclose]
  · rintro ⟨hc, hbusy⟩
    simp only [State.consistent, State.buffersOk, State.statusOk, State.sessionOk, hbusy, if_true,
      Bool.and_eq_true, Bool.or_eq_true, beq_iff_eq, Bool.not_eq_true', Bool.true_eq_false,
      false_or] at hc
    obtain ⟨⟨⟨hmem, hstage⟩, ⟨⟨⟨hecode, hinfo⟩, hend⟩, hdone⟩, hterm⟩,
      ⟨⟨⟨⟨⟨hop, hkey⟩, hlink⟩, hclose⟩, hsent⟩, hphase⟩⟩ := hc
    have herr : s.status.err = false := hend.resolve_right (by simp [hdone])
    have hnone : s.status.ecode = none := by simpa [herr] using hecode
    have hclear : s.errInfo = ErrInfo.clear := hinfo.resolve_left (by simp [herr])
    exact ⟨⟨hmem, hbusy, hdone, herr, hnone, hclear, hop, hkey⟩, hstage, hlink,
      fun ht => ⟨hclose.resolve_left (by simp [ht]), hterm.resolve_left (by simp [ht])⟩, hsent,
      hphase⟩

/-! ## What the phases ask -/

theorem handshakeOk_iff (s : State) (v : SessionState) (b : Bool) :
    s.handshakeOk v b = true ↔ s.status.sstate = v ∧ s.status.baudHi = b ∧ s.seq.slot = 0 ∧
      s.seq.doneSlots = 0 ∧ s.seq.error = none := by
  simp [State.handshakeOk, and_assoc]

theorem loopOk_iff (s : State) :
    s.loopOk = true ↔ s.status.baudHi = true ∧ s.seq.error = none ∧ 1 ≤ s.seq.slot ∧
      s.seq.slot ≤ 16 ∧ s.seq.doneSlots + 1 = s.seq.slot := by
  simp [State.loopOk, and_assoc]

/-- The phase that stands for all those that ask the same of the state, except that the opening
descriptor also allows KeyExchanged before its first byte (`phaseOk_part`). -/
def SeqPhase.part : SeqPhase → SeqPhase
  | .openLink | .progReq | .listen => .listen
  | .echo0 | .verReq | .ident | .keySend | .conf1 | .conf1Echo | .mark | .resp | .conf2
  | .conf2Echo => .conf2Echo
  | .readDesc | .readData | .readAck | .readCheck => .readCheck
  | .writeDesc g | .writeData g | .writeSum g | .writeCheck g => .writeCheck g
  | .termSend | .termCheck => .termCheck
  | p => p

theorem openingOk_of_ne {s : State} (hk : s.status.sstate ≠ .keyExchanged) :
    s.openingOk = (s.status.sstate == .active) := by
  simp [State.openingOk, hk]

/-- A phase asks what its part asks. -/
theorem phaseOk_part {s : State} (hk : s.status.sstate ≠ .keyExchanged) :
    s.phaseOk = (s.goto s.seq.phase.part).phaseOk := by
  have ho := openingOk_of_ne hk
  cases hp : s.seq.phase
  case readDesc =>
    simp only [State.phaseOk, hp, ho]
    rfl
  case writeDesc g =>
    cases g
    case scanKey =>
      simp only [State.phaseOk, hp, ho, SeqPhase.part, goto_seq]
      show _ = (s.handshakeOk .active true && s.seq.op == some Instr.wrall.op)
      simp [State.handshakeOk, Bool.and_assoc, Bool.and_comm, Bool.and_left_comm]
    all_goals (simp only [State.phaseOk, hp]; rfl)
  case writeData g | writeSum g | writeCheck g => cases g <;> (simp only [State.phaseOk, hp]; rfl)
  all_goals (simp only [State.phaseOk, hp]; rfl)

/-- Going on to a phase of the same part asks nothing new. -/
theorem phaseOk_goto_of_part {s : State} {q : SeqPhase} (hk : s.status.sstate ≠ .keyExchanged)
    (h : s.phaseOk = true) (hq : q.part = s.seq.phase.part) : (s.goto q).phaseOk = true := by
  rw [phaseOk_part (s := s.goto q) hk]
  show (s.goto q.part).phaseOk = true
  rw [hq, ← phaseOk_part hk, h]

/-- A phase that sends a frame is followed by one of its part. -/
theorem part_afterFrame (s : State) (p : SeqPhase) : (s.afterFrame p).part = p.part := by
  cases p
  case mark => simp only [State.afterFrame, State.afterMark]; split <;> rfl
  all_goals rfl

theorem part_afterReadData (s : State) : s.afterReadData.part = SeqPhase.readData.part := by
  unfold State.afterReadData
  split <;> rfl

/-- The termination sequence up to its check: outside the loop, in a failed session or one that
wrote or read all sixteen slots (R148, R149). -/
theorem phaseOk_ending_iff {s : State} (hp : s.seq.phase.part = .termCheck) :
    s.phaseOk = true ↔ s.seq.slot = 0 ∧ s.seq.doneSlots ≤ 16 ∧
      ((∃ f, s.seq.error = some f) ∧ s.status.sstate = .failed ∨
        s.seq.error = none ∧ s.status.sstate = .terminated ∧ s.seq.doneSlots = 16 ∧
          s.status.baudHi = true) := by
  have hq : s.seq.phase = .termSend ∨ s.seq.phase = .termCheck := by
    cases h : s.seq.phase <;> simp_all [SeqPhase.part]
  rcases hq with hq | hq <;> cases he : s.seq.error <;> simp [State.phaseOk, hq, he, and_assoc]

/-- The phase CLOSE: as before, or with the error of a failed termination check (R149). -/
theorem phaseOk_termClose_iff {s : State} (hp : s.seq.phase = .termClose) :
    s.phaseOk = true ↔ s.seq.slot = 0 ∧ s.seq.doneSlots ≤ 16 ∧
      ((∃ f, s.seq.error = some f) ∧ (s.status.sstate = .failed ∨
          s.status.sstate = .terminated ∧ s.seq.doneSlots = 16 ∧ s.status.termFail = false) ∨
        s.seq.error = none ∧ s.status.sstate = .terminated ∧ s.seq.doneSlots = 16) := by
  cases he : s.seq.error <;> simp [State.phaseOk, hp, he, and_assoc]

/-- SEQ.DONE_SLOTS is 0..16 (R24). -/
theorem doneSlots_le_of_phaseOk {s : State} (h : s.phaseOk = true) : s.seq.doneSlots ≤ 16 := by
  cases hp : s.seq.phase
  case termSend | termCheck =>
    obtain ⟨_, hd, _⟩ := (phaseOk_ending_iff (by rw [hp]; rfl)).1 h
    exact hd
  case termClose =>
    obtain ⟨_, hd, _⟩ := (phaseOk_termClose_iff hp).1 h
    exact hd
  case writeDesc g | writeData g | writeSum g | writeCheck g =>
    cases g <;> simp [State.phaseOk, hp, handshakeOk_iff, loopOk_iff] at h <;> omega
  all_goals simp [State.phaseOk, hp, handshakeOk_iff, loopOk_iff] at h <;> omega

/-- SSTATE is KeyExchanged only before the first byte of the first transaction (R131). -/
theorem phase_of_keyExchanged {s : State} (h : s.phaseOk = true)
    (hk : s.status.sstate = .keyExchanged) :
    s.seq.phase = .readDesc ∨ s.seq.phase = .writeDesc .scanKey := by
  cases hp : s.seq.phase
  case readDesc => exact .inl rfl
  case termSend | termCheck =>
    have hend := (phaseOk_ending_iff (by rw [hp]; rfl)).1 h
    simp [hk] at hend
  case termClose =>
    have hend := (phaseOk_termClose_iff hp).1 h
    simp [hk] at hend
  case writeDesc g | writeData g | writeSum g | writeCheck g =>
    cases g <;> simp_all [State.phaseOk, handshakeOk_iff]
  all_goals simp [State.phaseOk, hp, handshakeOk_iff, hk] at h

/-! ## The operations of a running session -/

/-- Every frame has a byte. -/
theorem frame_length_pos (s : State) {p : SeqPhase} (hp : p.sends = true) :
    0 < (s.frame p).length := by
  obtain ⟨hreq, _, _, hkey, _, _⟩ := wire_spec s.params
  cases p
  case progReq => simp only [State.frame, State.par]; omega
  case writeData g =>
    cases g
    case scanKey =>
      simp only [State.frame, State.writeBytesOf, State.par, xorBytes, List.length_map]
      omega
    case mask | slot =>
      simp [State.frame, State.writeBytesOf, xorBytes, maskBytes, readRecordOf, recLen]
  case readDesc | writeDesc => simp [State.frame, xorBytes, descBytes]
  case verReq | keySend | conf1 | mark | conf2 | readAck | writeSum | termSend =>
    exact Nat.one_pos
  all_goals cases hp

theorem sentOk_of_zero {s : State} (h : s.seq.sent = 0) : s.sentOk = true := by
  unfold State.sentOk
  split
  next hp => simpa [h] using frame_length_pos s hp
  next => simpa using h

/-- DEV's side and the trace are no part of it. -/
theorem State.InSession.outside {s : State} (hs : s.InSession) (q : List DevAnswer) (d : Nat)
    (e : List Event) : State.InSession { s with devQueue := q, draws := d, trace := e } :=
  ⟨hs.running, hs.stage, hs.link, hs.termFail, hs.sent, hs.phase⟩

theorem State.InSession.afterRx {s : State} (hs : s.InSession) (n : Nat) :
    (s.afterRx n).InSession := by
  obtain ⟨q, d, e, h⟩ := afterRx_eq s n
  rw [h]
  exact hs.outside q d e

/-- The sequencer goes on: what is left to show is what the new phase asks. -/
theorem State.InSession.goto {s u : State} {q : SeqPhase} (hs : s.InSession)
    (hopen : s.seq.phase ≠ .openLink) (hclose : s.seq.phase ≠ .termClose) (hq : q ≠ .openLink)
    (hok : (u.goto q).phaseOk = true) (hc : u.constants = s.constants := by simp)
    (hstage : u.stage = s.stage := by simp)
    (hline : u.status.link = s.status.link ∧ u.status.termFail = s.status.termFail := by simp) :
    (u.goto q).InSession where
  running := by rw [goto_constants, hc]; exact hs.running
  stage := by rw [goto_stage, hstage]; exact hs.stage
  link := by
    rw [goto_status, hline.1, hs.link]
    exact (bne_iff_ne.2 hopen).trans (bne_iff_ne.2 hq).symm
  termFail ht := by
    rw [goto_status, hline.2] at ht
    exact absurd (hs.termFail ht).1 hclose
  sent := sentOk_of_zero rfl
  phase := hok

/-- Leaving for the failure path (R148). -/
theorem State.InSession.fail {s : State} (hs : s.InSession) (hopen : s.seq.phase ≠ .openLink)
    (hclose : s.seq.phase ≠ .termClose) (f : Failure) : (s.fail f).InSession := by
  have hd := doneSlots_le_of_phaseOk hs.phase
  refine hs.goto hopen hclose (by simp) ?_ rfl rfl ⟨rfl, rfl⟩
  exact (phaseOk_ending_iff rfl).2 ⟨rfl, hd, .inl ⟨⟨f, rfl⟩, rfl⟩⟩

theorem State.InSession.check {s : State} (hs : s.InSession) (hopen : s.seq.phase ≠ .openLink)
    (hclose : s.seq.phase ≠ .termClose) (key : Byte) (ph : ErrPhase) (slot : Nat)
    {pass : State → State} (hpass : (pass (s.afterRx 1)).InSession) :
    (s.check key ph slot pass).InSession := by
  have hfail : ∀ f, ((s.afterRx 1).fail f).InSession := (hs.afterRx 1).fail (by simpa) (by simpa)
  rcases check_cases s key ph slot pass with ⟨_, _, _, h⟩ | ⟨_, h⟩ | ⟨_, _, _, h⟩ <;> rw [h]
  · exact hpass
  · exact hfail _
  · exact hfail _

theorem State.InSession.receive {s : State} (hs : s.InSession) (hopen : s.seq.phase ≠ .openLink)
    (hclose : s.seq.phase ≠ .termClose) (n : Nat) (ph : ErrPhase) (slot : Nat)
    {pass : List Byte → State → State}
    (hpass : ∀ bs, bs.length = n → (pass bs (s.afterRx n)).InSession) :
    (s.receive n ph slot pass).InSession := by
  rcases receive_cases s n ph slot pass with ⟨bs, hbs, h⟩ | ⟨_, h⟩ <;> rw [h]
  · exact hpass bs (rxAnswer_length hbs)
  · exact (hs.afterRx n).fail (by simpa) (by simpa) _

/-- The sequencer goes on to a phase that asks the same. -/
theorem State.InSession.goto_same {s : State} {q : SeqPhase} (hs : s.InSession)
    (hopen : s.seq.phase ≠ .openLink) (hclose : s.seq.phase ≠ .termClose) (hq : q ≠ .openLink)
    (hk : s.status.sstate ≠ .keyExchanged) (hpart : q.part = s.seq.phase.part) :
    (s.goto q).InSession :=
  hs.goto hopen hclose hq (phaseOk_goto_of_part hk hs.phase hpart)

theorem afterFrame_ne_openLink (s : State) {p : SeqPhase} (hp : p.sends = true) :
    s.afterFrame p ≠ .openLink := by
  cases p
  case mark => simp only [State.afterFrame, State.afterMark]; split <;> simp
  case openLink => cases hp
  all_goals simp [State.afterFrame]

/-- A byte of the frame goes out; after the last one the next phase of the part begins. -/
theorem State.InSession.sendFrame {s : State} (hs : s.InSession) (hp : s.seq.phase.sends = true)
    (hk : s.status.sstate ≠ .keyExchanged) : (s.sendFrame s.seq.phase).InSession := by
  have hopen : s.seq.phase ≠ .openLink := fun h => by rw [h] at hp; cases hp
  have hclose : s.seq.phase ≠ .termClose := fun h => by rw [h] at hp; cases hp
  have hlt : s.seq.sent < (s.frame s.seq.phase).length := by
    simpa [State.sentOk, hp] using hs.sent
  rcases sendFrame_cases s s.seq.phase with ⟨b, _, hmore, h⟩ | ⟨b, _, _, h⟩ | ⟨hle, _⟩
  · rw [h]
    refine ⟨hs.running, hs.stage, hs.link, hs.termFail, ?_, ?_⟩
    · simp only [State.sentOk, hp, if_true, decide_eq_true_eq]
      exact hmore
    · rw [phaseOk_part (by exact hk)]
      exact (phaseOk_part hk).symm.trans hs.phase
  · rw [h]
    have he : (s.emit (.tx b)).InSession := hs.outside _ _ _
    exact he.goto_same hopen hclose (afterFrame_ne_openLink s hp) hk (part_afterFrame s _)
  · omega

/-- SSTATE <- Active with the first byte of the first transaction (R131). -/
theorem State.InSession.activate {s : State} (hs : s.InSession) : s.activate.InSession := by
  rcases activate_cases s with ⟨hk, h⟩ | ⟨_, h⟩ <;> rw [h]
  · refine ⟨hs.running, hs.stage, hs.link, fun ht => ?_, hs.sent, ?_⟩
    · have := (hs.termFail ht).2
      rw [hk] at this; cases this
    · have hphase := hs.phase
      rcases phase_of_keyExchanged hphase hk with hp | hp <;>
        simp_all [State.phaseOk, State.openingOk, State.loopOk]
  · exact hs

theorem activate_ne_keyExchanged (s : State) : s.activate.status.sstate ≠ .keyExchanged := by
  rcases activate_cases s with ⟨_, h⟩ | ⟨hk, h⟩ <;> rw [h]
  · simp
  · exact hk

/-! ## The steps that lead to another part -/

/-- OPEN answered with OK: the link is open at the lower rate (R121). -/
theorem State.InSession.stepOpen {s : State} (hs : s.InSession) (hp : s.seq.phase = .openLink)
    (ha : s.openAnswer = true) : s.stepOpen.InSession := by
  rcases stepOpen_cases s with ⟨_, h⟩ | ⟨hn, _⟩
  · have hrun : s.stepOpen.constants.Running := by
      rw [stepOpen_constants ha]; exact hs.running
    have hphase := hs.phase
    simp only [State.phaseOk, hp, handshakeOk_iff] at hphase
    obtain ⟨hidle, _, hslot, hdone, herr⟩ := hphase
    obtain ⟨q, d, hq⟩ := answered_eq s
    rw [h, hq] at hrun ⊢
    refine ⟨hrun, hs.stage, rfl, fun ht => ?_, sentOk_of_zero rfl, ?_⟩
    · rw [(hs.termFail ht).1] at hp; cases hp
    · simp [State.phaseOk, handshakeOk_iff, hidle, hslot, hdone, herr]
  · rw [ha] at hn; cases hn

/-- LISTEN: the right code makes the session Listening, at the lower rate still (R123). -/
theorem State.InSession.stepListen {s : State} (hs : s.InSession) (hp : s.seq.phase = .listen) :
    s.stepListen.InSession := by
  have hr : (s.afterRx 1).InSession := hs.afterRx 1
  have hfail : ∀ f, ((s.afterRx 1).fail f).InSession := hr.fail (by simp [hp]) (by simp [hp])
  rcases stepListen_cases s with ⟨_, _, _, h⟩ | ⟨_, h⟩ | ⟨_, _, _, h⟩ <;> rw [h]
  · refine hr.goto (by simp [hp]) (by simp [hp]) (by simp) ?_
    have hphase := hs.phase
    simp_all [State.phaseOk, handshakeOk_iff]
  · exact hfail _
  · exact hfail _

/-- BAUD: the higher rate (R125). -/
theorem State.InSession.stepBaud {s : State} (hs : s.InSession) (hp : s.seq.phase = .baud) :
    s.stepBaud.InSession := by
  refine hs.goto (by simp [hp]) (by simp [hp]) (by simp) ?_ rfl rfl ⟨rfl, rfl⟩
  have hphase := hs.phase
  simp_all [State.phaseOk, handshakeOk_iff]

/-- The handshake is over: the first transaction of the command (R131, R153, R154). -/
theorem State.InSession.firstTransaction {s : State} (hs : s.InSession)
    (hp : s.seq.phase = .conf2Echo) :
    (s.setSession .keyExchanged).firstTransaction.InSession := by
  have hphase : s.handshakeOk .listening true = true := by simpa [State.phaseOk, hp] using hs.phase
  obtain ⟨_, hbaud, hslot, hdone, herr⟩ := (handshakeOk_iff s _ _).1 hphase
  unfold State.firstTransaction
  split
  next hop =>
    refine hs.goto (by simp [hp]) (by simp [hp]) (by simp) ?_
    have hop' : s.seq.op = some Instr.rdall.op := hop
    simp [State.phaseOk, loopOk_iff, State.openingOk, hbaud, hdone, herr, hop']
  next hop =>
    refine hs.goto (by simp [hp]) (by simp [hp]) (by simp) ?_
    have hop' : s.seq.op = some Instr.wrall.op := hs.running.op.resolve_left hop
    simp [State.phaseOk, State.openingOk, hbaud, hslot, hdone, herr, hop']

/-- The data block of a read transaction is staged, 32 bytes of it (R25, R139). -/
theorem State.InSession.withStage {s : State} (hs : s.InSession) {d : List Byte}
    (hd : d.length = 32) : State.InSession { s with stage := d } :=
  ⟨hs.running, hd, hs.link, hs.termFail, hs.sent, hs.phase⟩

/-- A record is stored at the check, where no frame is under way (R139). -/
theorem State.InSession.stageStored {s : State} (hs : s.InSession) (hp : s.seq.phase = .readCheck) :
    s.stageStored.InSession := by
  have hz : s.seq.sent = 0 := by simpa [State.sentOk, hp, SeqPhase.sends] using hs.sent
  exact ⟨{ hs.running with mem := Memory.writeBytes_wf _ _ _ hs.running.mem }, hs.stage, hs.link,
    hs.termFail, sentOk_of_zero hz, hs.phase⟩

/-- A transaction of the channel loop is counted, and the next slot's begins, or after slot 16 the
termination sequence (R146, R149). -/
theorem State.InSession.nextSlot {s : State} {q : SeqPhase} (hs : s.InSession)
    (hopen : s.seq.phase ≠ .openLink) (hclose : s.seq.phase ≠ .termClose) (hq : q ≠ .openLink)
    (hl : s.loopOk = true)
    (hok : ∀ t : State, t.loopOk = true → t.status = s.status → t.seq.op = s.seq.op →
      (t.goto q).phaseOk = true) :
    (s.countSlot.nextSlot q).InSession := by
  obtain ⟨hbaud, herr, h1, h16, hdone⟩ := (loopOk_iff s).1 hl
  unfold State.nextSlot nSlots
  split
  next hlt =>
    refine hs.goto hopen hclose hq (hok _ ?_ (by simp) (by simp))
    simp only [countSlot_seq] at hlt
    rw [loopOk_iff]
    exact ⟨hbaud, herr, by simp, by simpa using hlt, by simpa using hdone⟩
  next hlt =>
    simp only [countSlot_seq] at hlt
    refine hs.goto hopen hclose (by simp) ((phaseOk_ending_iff rfl).2 ?_)
    have h : s.seq.doneSlots + 1 = 16 := by omega
    exact ⟨rfl, h.le, .inr ⟨herr, rfl, h, hbaud⟩⟩

theorem State.InSession.commitRead {s : State} (hs : s.InSession) (hp : s.seq.phase = .readCheck) :
    s.commitRead.InSession := by
  have hphase := hs.phase
  simp only [State.phaseOk, hp, Bool.and_eq_true, beq_iff_eq] at hphase
  obtain ⟨⟨hl, hact⟩, hop⟩ := hphase
  refine (hs.stageStored hp).nextSlot (by simp [State.stageStored, hp])
    (by simp [State.stageStored, hp]) (by simp) hl ?_
  intro t ht hstatus hseq
  have ht' : (t.goto .readDesc).loopOk = true := ht
  have hs' : t.status.sstate = .active := by rw [hstatus]; exact hact
  have ho' : t.seq.op = some Instr.rdall.op := hseq.trans hop
  simp [State.phaseOk, ht', State.openingOk, hs', ho']

/-- What follows a write transaction: the bitmask write in a legacy session, then the slots (R145,
R146, R154). -/
theorem State.InSession.commitWrite {s : State} {g : Target} (hs : s.InSession)
    (hp : s.seq.phase = .writeCheck g) : (s.commitWrite g).InSession := by
  have hphase := hs.phase
  cases g with
  | scanKey =>
    simp only [State.phaseOk, hp, Bool.and_eq_true, beq_iff_eq, handshakeOk_iff] at hphase
    obtain ⟨⟨hact, hbaud, hslot, hdone, herr⟩, hop⟩ := hphase
    simp only [State.commitWrite]
    split
    next =>
      refine hs.goto (by simp [hp]) (by simp [hp]) (by simp) ?_
      simp [State.phaseOk, loopOk_iff, hact, hbaud, hdone, herr, hop]
    next hvar =>
      refine hs.goto (by simp [hp]) (by simp [hp]) (by simp) ?_
      simp [State.phaseOk, handshakeOk_iff, hact, hbaud, hslot, hdone, herr, hop, hvar]
  | mask =>
    simp only [State.phaseOk, hp, Bool.and_eq_true, beq_iff_eq, handshakeOk_iff] at hphase
    obtain ⟨⟨⟨hact, hbaud, hslot, hdone, herr⟩, hop⟩, _⟩ := hphase
    refine hs.goto (by simp [hp]) (by simp [hp]) (by simp) ?_
    simp [State.phaseOk, loopOk_iff, hact, hbaud, hdone, herr, hop]
  | slot =>
    simp only [State.phaseOk, hp, Bool.and_eq_true, beq_iff_eq] at hphase
    obtain ⟨⟨hl, hact⟩, hop⟩ := hphase
    refine hs.nextSlot (by simp [hp]) (by simp [hp]) (by simp) hl ?_
    intro t ht hstatus hseq
    have ht' : (t.goto (.writeDesc .slot)).loopOk = true := ht
    have hs' : t.status.sstate = .active := by rw [hstatus]; exact hact
    have ho' : t.seq.op = some Instr.wrall.op := hseq.trans hop
    simp [State.phaseOk, ht', hs', ho']

/-- The termination check: a failed one sets TERMFAIL in a failed session and is the error of any
other (R148, R149, R164). -/
theorem State.InSession.stepTermCheck {s : State} (hs : s.InSession)
    (hp : s.seq.phase = .termCheck) : s.stepTermCheck.InSession := by
  have hterm : s.status.termFail = false := by
    by_contra ht
    have := (hs.termFail (by simpa using ht)).1
    rw [hp] at this; cases this
  obtain ⟨hslot, hd, hend⟩ := (phaseOk_ending_iff (by rw [hp]; rfl)).1 hs.phase
  have hr : (s.afterRx 1).InSession := hs.afterRx 1
  rcases stepTermCheck_cases s with ⟨_, h⟩ | ⟨_, g, _, herr, h⟩ | ⟨f, _, herr, h⟩
  · rw [h]
    refine hr.goto (by simp [hp]) (by simp [hp]) (by simp) ((phaseOk_termClose_iff rfl).2 ?_)
    simp only [goto_seq, goto_status, afterRx_seq, afterRx_status]
    exact ⟨hslot, hd, hend.imp (fun ⟨hf, hfailed⟩ => ⟨hf, .inl hfailed⟩)
      fun ⟨hnone, hdone, h16, _⟩ => ⟨hnone, hdone, h16⟩⟩
  · have hfailed : s.status.sstate = .failed := by simpa [herr] using hend
    have hrun : s.stepTermCheck.constants.Running := by
      rw [stepTermCheck_constants]; exact hs.running
    obtain ⟨_, _, _, hrx⟩ := afterRx_eq s 1
    rw [h, hrx] at hrun ⊢
    refine ⟨hrun, hs.stage, ?_, fun _ => ⟨rfl, hfailed⟩, sentOk_of_zero rfl,
      (phaseOk_termClose_iff rfl).2 ⟨hslot, hd, .inl ⟨⟨g, herr⟩, .inl hfailed⟩⟩⟩
    exact hs.link.trans (by rw [hp]; rfl)
  · obtain ⟨hnone, h16, _⟩ : s.status.sstate = .terminated ∧ s.seq.doneSlots = 16 ∧
      s.status.baudHi = true := by simpa [herr] using hend
    have hc := stepTermCheck_constants s
    obtain ⟨_, _, _, hrx⟩ := afterRx_eq s 1
    rw [h, hrx] at hc ⊢
    exact hs.goto (by simp [hp]) (by simp [hp]) (by simp)
      ((phaseOk_termClose_iff rfl).2 ⟨hslot, hd, .inl ⟨⟨f, rfl⟩, .inr ⟨hnone, h16, hterm⟩⟩⟩) hc rfl
      ⟨rfl, rfl⟩

/-! ## One step of a running session -/

/-- A step that does not end the session keeps its invariant. -/
theorem State.InSession.seqPhase {s : State} (hs : s.InSession)
    (hopen : s.seq.phase = .openLink → s.openAnswer = true) (hclose : s.seq.phase ≠ .termClose) :
    (s.seqPhase s.seq.phase).InSession := by
  by_cases hsend : s.seq.phase.sends = true
  · by_cases hk : s.status.sstate = .keyExchanged
    · have hdesc : s.seqPhase s.seq.phase = s.activate.sendFrame s.activate.seq.phase := by
        rcases phase_of_keyExchanged hs.phase hk with hp | hp <;> rw [activate_seq, hp] <;> rfl
      rw [hdesc]
      exact hs.activate.sendFrame (by simpa using hsend) (activate_ne_keyExchanged s)
    · rw [seqPhase_sends hsend s hk]
      exact hs.sendFrame hsend hk
  have hk : s.status.sstate ≠ .keyExchanged := fun hk => by
    rcases phase_of_keyExchanged hs.phase hk with hp | hp <;> simp [hp, SeqPhase.sends] at hsend
  have hr : ∀ n, (s.afterRx n).InSession := hs.afterRx
  cases hp : s.seq.phase
  case openLink => exact hs.stepOpen hp (hopen hp)
  case listen => exact hs.stepListen hp
  case baud => exact hs.stepBaud hp
  case termCheck => exact hs.stepTermCheck hp
  case termClose => exact absurd hp hclose
  case idle =>
    have hphase := hs.phase
    simp [State.phaseOk, hp] at hphase
  case echo0 | conf1Echo =>
    simp only [State.seqPhase]
    refine hs.check (by simp [hp]) (by simp [hp]) _ _ _ ?_
    exact (hr 1).goto_same (by simp [hp]) (by simp [hp]) (by simp) (by simpa using hk)
      (by simp [hp, SeqPhase.part])
  case conf2Echo =>
    simp only [State.seqPhase]
    refine hs.check (by simp [hp]) (by simp [hp]) _ _ _ ?_
    exact (hr 1).firstTransaction (by simpa using hp)
  case readCheck =>
    simp only [State.seqPhase]
    refine hs.check (by simp [hp]) (by simp [hp]) _ _ _ ?_
    exact (hr 1).commitRead (by simpa using hp)
  case writeCheck g =>
    simp only [State.seqPhase]
    refine hs.check (by simp [hp]) (by simp [hp]) _ _ _ ?_
    exact (hr 1).commitWrite (by simpa using hp)
  case ident | resp =>
    simp only [State.seqPhase]
    refine hs.receive (by simp [hp]) (by simp [hp]) _ _ _ fun _ _ => ?_
    exact (hr _).goto_same (by simp [hp]) (by simp [hp]) (by simp) (by simpa using hk)
      (by simp [hp, SeqPhase.part])
  case readData =>
    simp only [State.seqPhase]
    refine hs.receive (by simp [hp]) (by simp [hp]) _ _ _ fun d hd => ?_
    have hstage := (hr recLen).withStage (d := xorBytes s.par.k2 d) (by simp [xorBytes, hd, recLen])
    refine hstage.goto_same (by simp [hp]) (by simp [hp]) ?_ (by simpa using hk) ?_
    · unfold State.afterReadData
      split <;> simp
    · simp [hp, part_afterReadData]
  all_goals simp [hp, SeqPhase.sends] at hsend

end Sys2Proof.Machine

/-! SUPPORT. The invariant outside a session: between commands, at a command's start and at its
end; every step of the machine keeps it, and what a session's step leaves unchanged. -/

namespace Sys2Proof.Machine

open Sys2Proof.Config

/-! ## Between commands -/

/-- No command runs and the block is at rest: IDLE, the key discarded and the transport closed (R24,
R150, R151).  It says nothing of the last command's outcome. -/
structure State.Quiet (s : State) : Prop where
  mem : s.mem.wf = true
  stage : s.stage.length = 32
  busy : s.status.busy = false
  phase : s.seq.phase = .idle
  sent : s.seq.sent = 0
  slot : s.seq.slot = 0
  k1s : s.k1s = 0
  link : s.status.link = false
  baudHi : s.status.baudHi = false
  doneSlots : s.seq.doneSlots ≤ 16

theorem consistent_idle_iff (s : State) :
    s.consistent = true ∧ s.status.busy = false ↔
      s.Quiet ∧ s.statusOk = true ∧ s.seq.op = none ∧ s.seq.error = none := by
  constructor
  · rintro ⟨hc, hbusy⟩
    simp only [State.consistent, State.buffersOk, State.idleOk, hbusy, Bool.false_eq_true, if_false,
      Bool.and_eq_true, beq_iff_eq, Option.isNone_iff_eq_none, Bool.not_eq_true',
      decide_eq_true_eq] at hc
    obtain ⟨⟨⟨hmem, hstage⟩, hstatus⟩,
      ⟨⟨⟨⟨⟨⟨⟨⟨hop, hphase⟩, hsent⟩, hslot⟩, herr⟩, hkey⟩, hlink⟩, hbaud⟩, hdone⟩⟩ := hc
    exact ⟨⟨hmem, hstage, hbusy, hphase, hsent, hslot, hkey, hlink, hbaud, hdone⟩, hstatus, hop,
      herr⟩
  · rintro ⟨⟨hmem, hstage, hbusy, hphase, hsent, hslot, hkey, hlink, hbaud, hdone⟩, hstatus, hop,
      herr⟩
    refine ⟨?_, hbusy⟩
    simp [State.consistent, State.buffersOk, State.idleOk, hmem, hstage, hbusy, hphase, hsent,
      hslot, hkey, hlink, hbaud, hdone, hstatus, hop, herr]

theorem State.Quiet.consistent {s : State} (hs : s.Quiet) (hstatus : s.statusOk = true)
    (hop : s.seq.op = none) (herr : s.seq.error = none) : s.consistent = true :=
  ((consistent_idle_iff s).2 ⟨hs, hstatus, hop, herr⟩).1

/-- A command ends without error (R51). -/
theorem State.Quiet.succeed {s : State} (hs : s.Quiet) (hinfo : s.errInfo = ErrInfo.clear)
    (herr : s.seq.error = none) (hterm : s.status.termFail = true → s.status.sstate = .failed)
    (v : Word) : (s.succeed v).consistent = true := by
  have hq : (s.succeed v).Quiet := { hs with }
  refine hq.consistent ?_ rfl herr
  cases ht : s.status.termFail <;> simp_all [State.statusOk, hs.busy]

/-- A command ends in an error (R161). -/
theorem State.Quiet.endWithError {s : State} (hs : s.Quiet)
    (hterm : s.status.termFail = true → s.status.sstate = .failed) (f : Failure) :
    (s.endWithError f).consistent = true := by
  have hq : (s.endWithError f).Quiet := { hs with busy := rfl }
  refine hq.consistent ?_ rfl rfl
  cases ht : s.status.termFail <;> simp_all [State.statusOk]

/-- A session's end leaves the block at rest (R150). -/
theorem quiet_endSession {s : State} (hmem : s.mem.wf = true) (hstage : s.stage.length = 32)
    (hdone : s.seq.doneSlots ≤ 16) : s.endSession.Quiet :=
  ⟨hmem, hstage, rfl, rfl, rfl, rfl, rfl, rfl, rfl, hdone⟩

/-! ## The two ends of a session -/

/-- A session whose link does not open (R121, R154). -/
theorem failUnopened_consistent {s : State} (hmem : s.mem.wf = true) (hstage : s.stage.length = 32)
    (hdone : s.seq.doneSlots ≤ 16) (f : Failure) : (s.failUnopened f).consistent = true :=
  (quiet_endSession (s := s.setSession .failed) hmem hstage hdone).endWithError (fun _ => rfl) f

/-- CLOSE (R148, R149, R150). -/
theorem State.InSession.stepTermClose {s : State} (hs : s.InSession) :
    s.stepTermClose.consistent = true := by
  have hquiet : (s.emit .close).endSession.Quiet :=
    quiet_endSession hs.running.mem hs.stage (doneSlots_le_of_phaseOk hs.phase)
  rcases stepTermClose_cases s with ⟨f, _, h⟩ | ⟨herr, h⟩ <;> rw [h]
  · have hfailed : ((s.emit .close).endSession.setSession .failed).Quiet := { hquiet with }
    exact hfailed.endWithError (fun _ => rfl) f
  · exact hquiet.succeed hs.running.errInfo herr (fun ht => (hs.termFail ht).2) _

/-- SEQ's step keeps the invariant: a session goes on or comes to one of its two ends, and between
commands nothing moves. -/
theorem seqStep_consistent {s : State} (hc : s.consistent = true) :
    s.seqStep.consistent = true := by
  cases hb : s.status.busy
  · rw [seqStep_idle hb]
    exact hc
  · have hs : s.InSession := (inSession_iff s).2 ⟨hc, hb⟩
    rw [State.seqStep, if_pos hb]
    by_cases hclose : s.seq.phase = .termClose
    · rw [hclose]
      exact hs.stepTermClose
    by_cases hopen : s.seq.phase = .openLink → s.openAnswer = true
    · exact ((inSession_iff _).1 (hs.seqPhase hopen hclose)).1
    · obtain ⟨hp, ha⟩ := Classical.not_imp.1 hopen
      rw [hp]
      rcases stepOpen_cases s with ⟨h, _⟩ | ⟨_, h⟩
      · exact absurd h ha
      · rw [State.seqPhase, h]
        obtain ⟨_, _, hq⟩ := answered_eq s
        rw [hq]
        exact failUnopened_consistent hs.running.mem hs.stage (doneSlots_le_of_phaseOk hs.phase) _

/-! ## Starting a command -/

/-- A command has just been started in a block at rest: the flags and ERRINFO are cleared (R50). -/
structure State.Started (s : State) : Prop extends s.Quiet where
  done : s.status.done = false
  err : s.status.err = false
  ecode : s.status.ecode = none
  termFail : s.status.termFail = false
  errInfo : s.errInfo = ErrInfo.clear
  error : s.seq.error = none

theorem startCommand_started {s : State} (hc : s.consistent = true) (hb : s.status.busy = false)
    (w : Word) : (s.startCommand w).Started := by
  obtain ⟨hq, _, _, herr⟩ := (consistent_idle_iff s).1 ⟨hc, hb⟩
  exact { hq with
    done := rfl, err := rfl, ecode := rfl, termFail := rfl, errInfo := rfl, error := herr }

theorem State.Started.succeed {s : State} (hs : s.Started) (v : Word) :
    (s.succeed v).consistent = true :=
  hs.toQuiet.succeed hs.errInfo hs.error (fun ht => by simp [hs.termFail] at ht) v

theorem State.Started.endWithError {s : State} (hs : s.Started) (f : Failure) :
    (s.endWithError f).consistent = true :=
  hs.toQuiet.endWithError (fun ht => by simp [hs.termFail] at ht) f

theorem State.Started.finishField {s : State} (hs : s.Started) (ph : ErrPhase)
    (r : Except ErrorKind Word) : (s.finishField ph r).consistent = true := by
  cases r with
  | ok v => exact hs.succeed v
  | error k => exact hs.endWithError _

/-- A codec command writes the buffers or ACTMASK, in canonical form, before it ends. -/
theorem State.Started.store {s : State} (hs : s.Started) (m : BitVec 16) {mem : Memory}
    (hmem : mem.wf = true) : State.Started { s with actMask := m, mem := mem } :=
  { hs with mem := hmem }

/-- A session command latches its configuration and begins the handshake (R115, R132). -/
theorem State.Started.beginHandshake {s : State} (hs : s.Started)
    (hop : s.seq.op = some Instr.rdall.op ∨ s.seq.op = some Instr.wrall.op) :
    s.latchSession.beginHandshake.consistent = true := by
  have hphase : s.latchSession.beginHandshake.phaseOk = true := by
    simp [State.phaseOk, handshakeOk_iff, hs.baudHi]
  have hs' : s.latchSession.beginHandshake.InSession :=
    { running := ⟨hs.mem, rfl, hs.done, hs.err, hs.ecode, hs.errInfo, hop, rfl⟩
      stage := hs.stage
      link := hs.link
      termFail := fun ht => (Bool.false_ne_true (hs.termFail.symm.trans ht)).elim
      sent := sentOk_of_zero rfl
      phase := hphase }
  exact ((inSession_iff _).1 hs').1

/-- The opcode in the command word is the command's (R47, R48). -/
theorem wordOp_of_decode {w : Word} {i : Instr} (h : decode w = .ok i) : wordOp w = i.op := by
  have hplain : ∀ {j : Instr} {x : BitVec 4}, decodePlain j x = .ok i → i = j := by
    intro j x hj
    unfold decodePlain at hj
    split at hj <;> cases hj
    rfl
  unfold decode at h
  split at h
  · unfold decodeOp at h
    split at h
    case h_16 => cases h
    case h_8 | h_10 | h_11 => cases h; exact BitVec.eq_of_toNat_eq ‹_›
    all_goals rw [hplain h]; exact BitVec.eq_of_toNat_eq ‹_›
  · cases h

/-- Every command that was started in a block at rest leaves a consistent state. -/
theorem exec_consistent {i : Instr} {s t : State} (hs : s.Started) (hop : s.seq.op = some i.op)
    (h : exec i s = .next t) : t.consistent = true := by
  cases i <;> obtain rfl := Host.Outcome.next.inj h
  case fenc | fdec | stepf | tenc | tdec | gdec => exact hs.finishField _ _
  case genc | csum => exact hs.succeed _
  case amask => exact (hs.store _ hs.mem).succeed _
  case renc | rdec | idec =>
    split
    · exact (hs.store s.actMask (Memory.writeBytes_wf _ _ _ hs.mem)).succeed _
    · exact hs.endWithError _
  case ienc =>
    split
    · exact (hs.store _ (Memory.writeBytes_wf _ _ _ hs.mem)).succeed _
    · exact hs.endWithError _
  case rdall => exact hs.beginHandshake (.inl hop)
  case wrall =>
    split
    next rs _ =>
      have hstored := hs.store (activeMask s.mem) (mem := writeImage s.mem rs)
        (Memory.writeBytes_wf _ _ _ hs.mem)
      exact hstored.beginHandshake (.inr hop)
    next =>
      exact failUnopened_consistent (s := { s.latchSession with trace := [] }) hs.mem hs.stage
        (Nat.zero_le 16) _

theorem issue_consistent {w : Word} {s t : State} (hc : s.consistent = true)
    (hb : s.status.busy = false) (h : issue w s = .next t) : t.consistent = true := by
  have hs := startCommand_started hc hb w
  unfold issue at h
  split at h
  next i hi => exact exec_consistent hs (by rw [startCommand_seq, wordOp_of_decode hi]) h
  next =>
    obtain rfl := Host.Outcome.next.inj h
    exact hs.endWithError _

/-! ## HOST's acts -/

theorem hostRead_consistent {s : State} (hc : s.consistent = true) (n a : Nat) :
    (s.hostRead n a).consistent = true := by
  rcases hostRead_cases s n a with ⟨_, _, h⟩ | ⟨_, h⟩ <;> rw [h] <;> exact hc

theorem hostStore_consistent {s : State} (hc : s.consistent = true) (hb : s.status.busy = false)
    (n a : Nat) (v : Word) : (s.hostStore n a v).consistent = true := by
  rcases hostStore_cases s n a v with
    ⟨_, h⟩ | ⟨_, h⟩ | ⟨_, h⟩ | ⟨_, _, _, _, h⟩ | ⟨_, h⟩ <;> rw [h]
  case inr.inr.inr.inr =>
    obtain ⟨hq, hstatus, hop, herr⟩ := (consistent_idle_iff s).1 ⟨hc, hb⟩
    have hq' : State.Quiet { s with mem := s.mem.writeBytes a (leBytes n v.toNat) } :=
      { hq with mem := Memory.writeBytes_wf _ _ _ hq.mem }
    exact hq'.consistent hstatus hop herr
  all_goals exact hc

theorem hostWrite_consistent {s t : State} {n a : Nat} {v : Word} (hc : s.consistent = true)
    (h : hostWrite n a v s = .next t) : t.consistent = true := by
  unfold hostWrite at h
  split at h
  next =>
    obtain rfl := Host.Outcome.next.inj h
    exact hc
  next hb =>
    have hidle : s.status.busy = false := by simpa using hb
    split at h
    · exact issue_consistent hc hidle h
    · obtain rfl := Host.Outcome.next.inj h
      exact hostStore_consistent hc hidle n a v

theorem resetInput_consistent (s : State) : s.resetInput.consistent = true := by
  have hq : s.resetInput.Quiet :=
    ⟨Memory.nil_wf, List.length_replicate, rfl, rfl, rfl, rfl, rfl, rfl, rfl, Nat.zero_le 16⟩
  exact hq.consistent rfl rfl rfl

/-- Settles O59: a step is an act of HOST, which the block takes as its rules say, or a step of SEQ
(`step_cases`), and each keeps the invariant. -/
theorem stepKeepsConsistent : Obligations.StepKeepsConsistent := by
  intro s t hc hstep
  have hq : ∀ q, State.consistent { s with hostQueue := q } = true := fun _ => hc
  rcases step_cases hstep with ⟨_, rfl⟩ | ⟨act, rest, _, hact⟩
  · exact seqStep_consistent hc
  rcases hact with ⟨n, a, v, _, _, hw⟩ | ⟨n, a, _, _, rfl⟩ | ⟨_, _, rfl⟩ | ⟨_, _, rfl⟩ | ⟨_, rfl⟩ |
    ⟨_, rfl⟩
  · exact hostWrite_consistent (hq rest) hw
  · exact hostRead_consistent (hq rest) n a
  · exact seqStep_consistent hc
  · exact hostRead_consistent (hq rest) 4 0x00C
  · exact seqStep_consistent (hq rest)
  · exact resetInput_consistent _

/-! ## The frame of a session's step -/

/-- Everything a step of SEQ leaves alone, told from the state before the step or, at a read
transaction's check, from that state with STAGE stored in the slot's record. -/
theorem seqPhase_frame (s : State) (p : SeqPhase) :
    ∃ s', (s' = s ∨ p = .readCheck ∧ s' = s.stageStored) ∧
      (s.seqPhase p).hostSide = s'.hostSide ∧
      ((s.seqPhase p).status.busy = true → (s.seqPhase p).constants = s'.constants) := by
  by_cases hread : p = .readCheck
  · subst hread
    rcases readCheck_constants s with h | h
    · exact ⟨s, .inl rfl, congrArg SessionConstants.host h, fun _ => h⟩
    · exact ⟨_, .inr ⟨rfl, rfl⟩, congrArg SessionConstants.host h, fun _ => h⟩
  · refine ⟨s, .inl rfl, seqPhase_hostSide hread, fun hb => seqPhase_constants ?_ ?_ hread⟩
    · rintro rfl
      exact openAnswer_of_busy hb
    · rintro rfl
      exact Bool.false_ne_true ((stepTermClose_busy s).symm.trans hb)

/-- A byte that the storing of STAGE changes is one of the slot's record (R22, R139). -/
theorem stageStored_read_ne {s : State} (hstage : s.stage.length = 32) {a : Nat}
    (h : s.stageStored.mem.read a ≠ s.mem.read a) :
    imgAddrOf s.seq.slot ≤ a ∧ a < imgAddrOf s.seq.slot + 32 := by
  by_contra hout
  exact h (Memory.read_writeBytes_outside _ _ _ _ (by omega))

/-- Settles O60: the step is SEQ's (`step_seqTurn`), which keeps HOST's side and, while the session
goes on, its constants, but for the 32 bytes that a read transaction's check stores
(`seqPhase_frame`). -/
theorem sessionStepFrame : Obligations.SessionStepFrame := by
  intro s t hc hb hturn hstep
  have hs : s.InSession := (inSession_iff s).2 ⟨hc, hb⟩
  obtain ⟨r, hr⟩ := step_seqTurn hturn hb
  obtain rfl := Host.Outcome.next.inj (hr.symm.trans hstep)
  obtain ⟨s', hs', hhost, hconst⟩ := seqPhase_frame s s.seq.phase
  obtain ⟨hparams, hcmd, harg, hcfg, hkey1, hlcfg, hlkey, hmask, hdata, hmem⟩ :=
    HostSide.mk.inj hhost
  have hgoes : (s.seqPhase s.seq.phase).status.busy = true →
      (s.seqPhase s.seq.phase).res = s'.res ∧ (s.seqPhase s.seq.phase).errInfo = s'.errInfo ∧
        (s.seqPhase s.seq.phase).k1s = s'.k1s := fun hbusy =>
    have h := hconst hbusy
    ⟨congrArg SessionConstants.res h, congrArg SessionConstants.errInfo h,
      congrArg SessionConstants.k1s h⟩
  rcases hs' with rfl | ⟨hp, rfl⟩
  · exact ⟨hparams, hcmd, harg, hcfg, hkey1, hlcfg, hlkey, hmask, hdata, hgoes,
      fun a ha => absurd (congrArg (Memory.read · a) hmem) ha⟩
  · refine ⟨hparams, hcmd, harg, hcfg, hkey1, hlcfg, hlkey, hmask, hdata, hgoes, fun a ha => ?_⟩
    have hread : (s.seqPhase s.seq.phase).mem.read a = s.stageStored.mem.read a :=
      congrArg (Memory.read · a) hmem
    exact ⟨hp, stageStored_read_ne hs.stage fun he => ha (hread.trans he)⟩

end Sys2Proof.Machine

/-! SUPPORT. Which HOST accesses the block takes and which it refuses (R28, R34), and that an accepted
one always has a next state; the device addresses of the slots (R30). -/

namespace Sys2Proof.Machine

open Sys2Proof.Config

/-! ## The slots' device addresses -/

/-- BASE_ADDR leaves room for the sixteen slots (R30), so the sum does not wrap. -/
theorem slotAddr_toNat (p : BlockParams) {n : Nat} (hn : n ≤ 16) :
    (slotAddr p.raw n).toNat = p.raw.baseAddr.toNat + 0x20 * (n - 1) := by
  obtain ⟨_, _, _, _, _, hbase⟩ := wire_spec p
  simp only [slotAddr, stride, BitVec.toNat_add, BitVec.toNat_ofNat]
  omega

/-- Settles O53: the addresses as numbers, of which the next is 32 higher. -/
theorem slotAddressesAscendWithoutWrap : Obligations.SlotAddressesAscendWithoutWrap := by
  intro p n h1 h16
  refine ⟨slotAddr_toNat p h16, fun hlt => ?_⟩
  rw [slotAddr_toNat p h16, slotAddr_toNat p hlt]
  omega

/-! ## Accepted and refused accesses -/

theorem accessWidthOk_iff (n : Nat) : accessWidthOk n = true ↔ n = 1 ∨ n = 2 ∨ n = 4 := by
  simp [accessWidthOk, or_assoc]

theorem accessRefusal_width {n a : Nat} (hn : ¬(n = 1 ∨ n = 2 ∨ n = 4)) :
    accessRefusal n a = some .accessWidth :=
  if_pos (by rw [Bool.eq_false_iff.2 (mt (accessWidthOk_iff n).1 hn), Bool.not_false])

theorem accessRefusal_space {n a : Nat} (hn : n = 1 ∨ n = 2 ∨ n = 4) (ha : a + n > 0x400) :
    accessRefusal n a = some .outsideHostSpace := by
  have hspace : accessInSpace n a = false := decide_eq_false (by omega)
  simp [accessRefusal, (accessWidthOk_iff n).2 hn, hspace]

theorem accessRefusal_alignment {n a : Nat} (hn : n = 1 ∨ n = 2 ∨ n = 4) (ha : a + n ≤ 0x400)
    (hmod : a % n ≠ 0) : accessRefusal n a = some .misalignedAccess := by
  have hspace : accessInSpace n a = true := decide_eq_true ha
  have haligned : accessAligned n a = false := beq_eq_false_iff_ne.2 hmod
  simp [accessRefusal, (accessWidthOk_iff n).2 hn, hspace, haligned]

/-- A write or a read that the block refuses stops the model by the refusal's name. -/
theorem step_refused {s : State} {rest : List HostAct} {n a : Nat} {v : Word} {act : HostAct}
    {r : Refusal} (hact : act = .write n a v ∨ act = .read n a) (hq : s.hostQueue = act :: rest)
    (hr : accessRefusal n a = some r) : step s = .refused r := by
  rcases hact with rfl | rfl <;> simp [step, runStep, hq, hostAct, hr]

/-! ## Accepted accesses have a next state -/

/-- Every command ends in a next state: an error is one too (R157). -/
theorem exec_next (i : Instr) (s : State) : ∃ t, exec i s = .next t := by
  cases i <;> exact ⟨_, rfl⟩

theorem issue_next (w : Word) (s : State) : ∃ t, issue w s = .next t := by
  unfold issue
  split
  · exact exec_next _ _
  · exact ⟨_, rfl⟩

theorem hostWrite_busy {s : State} (hb : s.status.busy = true) (n a : Nat) (v : Word) :
    hostWrite n a v s = .next s := if_pos hb

theorem hostWrite_command {s : State} (hb : s.status.busy = false) (v : Word) :
    hostWrite 4 0 v s = issue v s := by
  simp [hostWrite, hb, isCommandWrite]

theorem hostWrite_store {s : State} (hb : s.status.busy = false) {n a : Nat}
    (hcmd : ¬(n = 4 ∧ a = 0)) (v : Word) : hostWrite n a v s = .next (s.hostStore n a v) := by
  have hfalse : isCommandWrite n a = false := by simpa [isCommandWrite] using hcmd
  simp [hostWrite, hb, hfalse]

theorem hostWrite_next (n a : Nat) (v : Word) (s : State) : ∃ t, hostWrite n a v s = .next t := by
  cases hb : s.status.busy with
  | true => exact ⟨_, hostWrite_busy hb n a v⟩
  | false =>
    by_cases hcmd : n = 4 ∧ a = 0
    · obtain ⟨rfl, rfl⟩ := hcmd
      rw [hostWrite_command hb]
      exact issue_next v s
    · exact ⟨_, hostWrite_store hb hcmd v⟩

/-- Settles O6: the first check that fails names the refusal, and an access that passes all three has
a next state. -/
theorem misalignedAccessIsRefused : Obligations.MisalignedAccessIsRefused := by
  intro s rest n a v act hact hq
  refine ⟨fun hn => step_refused hact hq (accessRefusal_width hn),
    fun hn ha => step_refused hact hq (accessRefusal_space hn ha),
    fun hn ha hmod => step_refused hact hq (accessRefusal_alignment hn ha hmod),
    fun hn ha hmod => ?_⟩
  have hw : accessWellFormed n a = true := (accessWellFormed_iff n a).2 ⟨hn, hmod, ha⟩
  rcases hact with rfl | rfl
  · rw [step_write hq hw]
    exact hostWrite_next _ _ _ _
  · exact ⟨_, step_read hq hw⟩

end Sys2Proof.Machine

/-! SUPPORT. What HOST reads (R29, R31, R35, R37): the bytes of a register, the words at the map's
addresses, and the reads whose value is specified while BUSY = 1 (R40). -/

namespace Sys2Proof.Machine

open Sys2Proof.Config

/-! ## The map -/

theorem regWord_reserved (s : State) {k : Nat} (hk : 9 ≤ k) : s.regWord k = 0 := by
  obtain ⟨j, rfl⟩ := Nat.exists_eq_add_of_le' hk
  rfl

theorem hostByte_reserved (s : State) {a : Nat} (h1 : 0x024 ≤ a) (h2 : a < 0x100) :
    s.hostByte a = 0 := by
  rw [hostByte_reg s a h2, regWord_reserved s (by omega)]
  exact BitVec.extractLsb'_zero

/-- The storage of a TBL entry byte by byte (R21). -/
theorem storedBits_tbl (i : SlotIx) {k : Nat} (hk : k < 16) :
    storedBits (0x100 + 16 * i.val + k) =
      if k < 12 then 0xFF else if k = 12 then 0x1F else 0 := by
  have hi := i.isLt
  rw [storedBits, if_neg (by omega), if_pos (by omega),
    show (0x100 + 16 * i.val + k) % 16 = k by omega]

/-- Bytes 13 to 15 of a TBL entry are reserved (R21, R38). -/
theorem hostByte_tbl_reserved (s : State) (i : SlotIx) {k : Nat} (h1 : 12 < k) (h2 : k < 16) :
    s.hostByte (0x100 + 16 * i.val + k) = 0 := by
  rw [hostByte_mem s _ (by omega), Memory.read, storedBits_tbl i h2, if_neg (by omega),
    if_neg (by omega)]
  exact BitVec.and_zero

/-- Bits 7:5 of byte 12 of a TBL entry are reserved (R21, R38). -/
theorem hostByte_tbl_flags_lt (s : State) (i : SlotIx) :
    (s.hostByte (0x100 + 16 * i.val + 12)).toNat < 32 := by
  rw [hostByte_mem s _ (by omega), Memory.read, storedBits_tbl i (by omega), BitVec.toNat_and]
  exact Nat.lt_of_le_of_lt Nat.and_le_right (by decide)

/-- Settles O10: the registers by their word addresses, the reserved space, and the buffers with a
TBL entry's reserved bits. -/
theorem hostMapReads : Obligations.HostMapReads := by
  intro s
  refine ⟨hostValue_reg s 0 (by omega), hostValue_reg s 1 (by omega), hostValue_reg s 2 (by omega),
    hostValue_reg s 3 (by omega), hostValue_reg s 4 (by omega), hostValue_reg s 5 (by omega),
    hostValue_reg s 6 (by omega), hostValue_reg s 7 (by omega), hostValue_reg s 8 (by omega),
    fun a h1 h2 => hostByte_reserved s h1 h2, fun a h1 _ => hostByte_mem s a h1,
    fun i => ⟨?_, ?_, ?_, hostByte_tbl_flags_lt s i⟩⟩
  all_goals exact hostByte_tbl_reserved s i (by omega) (by omega)

/-! ## The bytes of a read -/

/-- The bytes from byte k of a register on, as many as the register has (R31). -/
theorem hostBytes_reg (s : State) (r n : Nat) (hr : r < 64) : ∀ k, k + n ≤ 4 →
    s.hostBytes (4 * r + k) n = leBytes n ((s.regWord r).toNat / 256 ^ k) := by
  induction n with
  | zero => intro k _; rfl
  | succ n ih =>
    intro k hk
    rw [State.hostBytes, leBytes, hostByte_reg s _ (by omega), Nat.add_assoc, ih (k + 1) (by omega),
      show (4 * r + k) / 4 = r by omega, show (4 * r + k) % 4 = k by omega, word_byte, Nat.pow_succ,
      Nat.div_div_eq_div_mul]

/-- A read inside a register delivers the register's bytes there. -/
theorem hostValue_inside_reg (s : State) {r k n : Nat} (hr : r < 64) (hk : k + n ≤ 4) :
    s.hostValue n (4 * r + k) = BitVec.ofNat 32 ((s.regWord r).toNat / 256 ^ k % 256 ^ n) := by
  rw [State.hostValue, hostBytes_reg s r n hr k hk, leNat_leBytes]

/-- The k-th byte of the value of a read is the byte at the k-th address (R31). -/
theorem hostValue_byte (s : State) {n k : Nat} (a : Nat) (hn : n ≤ 4) (hk : k < n) :
    (s.hostValue n a).toNat / 256 ^ k % 256 = (s.hostByte (a + k)).toNat := by
  rw [hostValue_toNat s n a hn, leNat_digit _ k (by simpa using hk), hostBytes_getD s n a k hk]

theorem hostValue_lt (s : State) {n : Nat} (a : Nat) (hn : n ≤ 4) :
    (s.hostValue n a).toNat < 256 ^ n := by
  rw [hostValue_toNat s n a hn]
  simpa using leNat_lt (s.hostBytes a n)

/-! ## The step of a read -/

theorem busyUnspecified_iff (a : Nat) : busyUnspecified a = true ↔
    (0x008 ≤ a ∧ a < 0x00C) ∨ (0x020 ≤ a ∧ a < 0x024) ∨ 0x100 ≤ a := by
  simp [busyUnspecified, or_assoc]

/-- A read of a specified value delivers it and changes nothing else (R37, R40). -/
theorem hostRead_specified {s : State} {n a : Nat}
    (h : s.status.busy = false ∨ busyUnspecified a = false) :
    s.hostRead n a = { s with hostData := s.hostValue n a } := by
  rcases hostRead_cases s n a with ⟨hb, hu, _⟩ | ⟨_, he⟩
  · simp [hb, hu] at h
  · exact he

theorem step_read_specified {s : State} {rest : List HostAct} {n a : Nat}
    (hq : s.hostQueue = .read n a :: rest) (hw : accessWellFormed n a = true)
    (h : s.status.busy = false ∨ busyUnspecified a = false) :
    step s = .next { s with hostQueue := rest, hostData := s.hostValue n a } := by
  rw [step_read hq hw, hostRead_specified (by exact h), hostValue_queue]

/-- While BUSY = 1 the value is free where it is unspecified (R40; log entry 3). -/
theorem step_read_unspecified {s : State} {rest : List HostAct} {n a : Nat}
    (hq : s.hostQueue = .read n a :: rest) (hw : accessWellFormed n a = true)
    (hb : s.status.busy = true) (hu : busyUnspecified a = true) :
    step s = .next { s with
      hostQueue := rest
      hostData := BitVec.ofNat 32 ((busyRead s.draws).toNat % 256 ^ n)
      draws := s.draws + 1 } := by
  rw [step_read hq hw, State.hostRead, if_pos (by simp [hb, hu])]

/-- Settles O9: the value is that of the bytes read, and POLL's is the STATUS register. -/
theorem hostReadDeliversItsBytes : Obligations.HostReadDeliversItsBytes := by
  intro s rest hb
  refine ⟨fun n a hq hw => ?_, fun hq => ?_⟩
  · obtain ⟨hwidth, _, _⟩ := (accessWellFormed_iff n a).1 hw
    have hn : n ≤ 4 := by omega
    exact ⟨s.hostValue n a, step_read_specified hq hw (.inl hb),
      fun k hk => hostValue_byte s a hn hk, hostValue_lt s a hn⟩
  · have hstatus : s.hostValue 4 0x00C = s.status.toWord := hostValue_reg s 3 (by omega)
    rw [step_poll hq, if_neg (by simp [hb]), hostRead_specified (by exact .inl hb), hostValue_queue,
      hstatus]

end Sys2Proof.Machine

/-! SUPPORT. What HOST's acts do while a command runs (R40, R176), and SEQ's step under a POLL or a
wait (log entry 5). -/

namespace Sys2Proof.Machine

open Sys2Proof.Config

theorem step_write_busy {s : State} {rest : List HostAct} {n a : Nat} {v : Word}
    (hq : s.hostQueue = .write n a v :: rest) (hw : accessWellFormed n a = true)
    (hb : s.status.busy = true) : step s = .next { s with hostQueue := rest } := by
  rw [step_write hq hw]
  exact hostWrite_busy (by exact hb) n a v

/-- Between commands and in a session SEQ's step leaves HOST's pending acts alone. -/
theorem seqStep_withQueue (s : State) (q : List HostAct) :
    (s.withQueue q).seqStep = s.seqStep.withQueue q := by
  cases hb : s.status.busy with
  | false => rw [seqStep_idle hb, seqStep_idle (by exact hb)]
  | true =>
    rw [State.seqStep, State.seqStep, if_pos hb, if_pos (by exact hb)]
    exact seqPhase_withQueue s q s.seq.phase

/-- An idle HOST's step, with which a POLL's and a wait's are compared. -/
theorem step_withQueue_nil (s : State) :
    step (s.withQueue []) = .next (s.seqStep.withQueue []) := by
  rw [step_nil (s := s.withQueue []) rfl, seqStep_withQueue]

/-- Settles O8: writes are dropped, reads are as R40 says, and a POLL and a wait leave to SEQ the step
of an idle HOST. -/
theorem busyHostAccesses : Obligations.BusyHostAccesses := by
  intro s rest hb
  refine ⟨fun n a hw => ⟨fun v hq => step_write_busy hq hw hb,
      fun hq => ⟨fun hu => ?_, fun hu => ?_⟩⟩,
    fun hq => ⟨_, step_withQueue_nil s, ?_⟩, fun hq => ⟨_, step_withQueue_nil s, ?_⟩⟩
  · exact step_read_unspecified hq hw hb ((busyUnspecified_iff a).2 hu)
  · exact step_read_specified hq hw
      (.inr (Bool.eq_false_iff.2 (mt (busyUnspecified_iff a).1 hu)))
  · have hkept : s.withQueue (.poll :: rest) = s := by rw [State.withQueue, ← hq]
    rw [step_poll hq, if_pos hb]
    exact congrArg Host.Outcome.next
      ((congrArg State.seqStep hkept).symm.trans (seqStep_withQueue s (.poll :: rest)))
  · rw [step_wait hq]
    exact congrArg Host.Outcome.next (seqStep_withQueue s rest)

end Sys2Proof.Machine

/-! SUPPORT. What a HOST write that issues no command changes (R31, R35, R36, R38): byte by byte, the
writable bits of what it covers. -/

namespace Sys2Proof.Machine

open Sys2Proof.Config

/-! ## Writes to CMD -/

/-- A write of 1 or 2 bytes inside CMD is ignored (R36). -/
theorem hostStore_cmd (s : State) (n : Nat) {a : Nat} (v : Word) (ha : a < 4) :
    s.hostStore n a v = s := by
  rcases hostStore_cases s n a v with
    ⟨h, _⟩ | ⟨h, _⟩ | ⟨h, _⟩ | ⟨_, _, _, _, h⟩ | ⟨h, _⟩
  case inr.inr.inr.inl => exact h
  all_goals omega

/-- Settles O7: a narrow write of CMD is dropped or ignored, a 4-byte one issues its word, and a read
of CMD is of a specified value. -/
theorem commandWriteNeedsFourBytes : Obligations.CommandWriteNeedsFourBytes := by
  refine ⟨fun s rest n a v hq hn ha hmod => ?_, fun s rest v hq hb => ?_,
    fun s rest n a hq hw ha => ?_⟩
  · have hw : accessWellFormed n a = true := (accessWellFormed_iff n a).2 ⟨by omega, hmod, by omega⟩
    cases hb : s.status.busy with
    | true => exact step_write_busy hq hw hb
    | false =>
      rw [step_write hq hw, hostWrite_store (by exact hb) (by omega), hostStore_cmd _ _ _ (by omega)]
  · rw [step_write hq (by decide)]
    exact hostWrite_command (by exact hb) v
  · obtain ⟨hn, hmod, _⟩ := (accessWellFormed_iff n a).1 hw
    have hfit : a + n ≤ 4 := by rcases hn with rfl | rfl | rfl <;> omega
    have hvalue := hostValue_inside_reg s (r := 0) (by omega) hfit
    rw [Nat.mul_zero, Nat.zero_add] at hvalue
    have hspec : busyUnspecified a = false :=
      Bool.eq_false_iff.2 (mt (busyUnspecified_iff a).1 (by omega))
    rw [step_read_specified hq hw (.inr hspec), hvalue]
    rfl

/-! ## Writes to the registers -/

/-- The bits of the register at word address 4 r that HOST can write (R11, R15, R17); none of a
read-only register, of CMD by a narrow write, or of a reserved address (R35, R36). -/
def registerMask : Nat → Option Word
  | 1 => some 0xFFFFFFFF
  | 5 => some 0x1F
  | 6 => some 0xFF
  | _ => none

/-- The writable bits of a register's byte are its byte of the register's mask, where that is not 0. -/
theorem writableBits_reg {x : Nat} (hx : x < 0x100) : writableBits x =
    ((registerMask (x / 4)).map (·.extractLsb' (8 * (x % 4)) 8)).filter (· != 0) := by
  have hwords : ∀ r < 64, ∀ j < 4, writableBits (4 * r + j) =
      ((registerMask r).map (·.extractLsb' (8 * j) 8)).filter (· != 0) := by decide
  have hword := hwords (x / 4) (by omega) (x % 4) (by omega)
  rwa [Nat.div_add_mod] at hword

theorem writableBits_mem {x : Nat} (h1 : 0x100 ≤ x) (h2 : x < 0x400) :
    writableBits x = some (storedBits x) := by
  rw [writableBits, if_neg (by omega), if_neg (by omega), if_neg (by omega), if_pos ⟨h1, h2⟩]

/-- A register narrower than a word holds a word's low bits. -/
theorem setWidth_setWidth_eq_and (w : Word) (m : Nat) :
    (w.setWidth m).setWidth 32 = w &&& (BitVec.allOnes m).setWidth 32 := by
  ext i hi
  simp [hi, Bool.and_comm]

theorem setWidth_and_mask {m : Nat} (r : BitVec m) (hm : m ≤ 32) :
    r.setWidth 32 &&& (BitVec.allOnes m).setWidth 32 = r.setWidth 32 := by
  rw [← setWidth_setWidth_eq_and, BitVec.setWidth_setWidth_of_le _ hm, BitVec.setWidth_eq]

/-- A register that HOST can write holds no other bits. -/
theorem regWord_and_mask (s : State) {r : Nat} {M : Word} (hM : registerMask r = some M) :
    s.regWord r &&& M = s.regWord r := by
  unfold registerMask at hM
  split at hM <;> cases hM
  · exact BitVec.and_allOnes
  · exact setWidth_and_mask s.cfg (by omega)
  · exact setWidth_and_mask s.key1 (by omega)

theorem hostStore_arg (s : State) (n : Nat) {a : Nat} (v : Word) (h : a / 4 = 1) :
    s.hostStore n a v = { s with arg := mergeBytes s.arg (a % 4) n v } := by
  rw [State.hostStore, if_pos (by omega), h]
  rfl

theorem hostStore_cfg (s : State) (n : Nat) {a : Nat} (v : Word) (h : a / 4 = 5) :
    s.hostStore n a v =
      { s with cfg := (mergeBytes (s.cfg.setWidth 32) (a % 4) n v).setWidth 5 } := by
  rw [State.hostStore, if_pos (by omega), h]
  rfl

theorem hostStore_key1 (s : State) (n : Nat) {a : Nat} (v : Word) (h : a / 4 = 6) :
    s.hostStore n a v =
      { s with key1 := (mergeBytes (s.key1.setWidth 32) (a % 4) n v).setWidth 8 } := by
  rw [State.hostStore, if_pos (by omega), h]
  rfl

theorem hostStore_mem (s : State) (n : Nat) {a : Nat} (v : Word) (h : 0x100 ≤ a) :
    s.hostStore n a v = { s with mem := s.mem.writeBytes a (leBytes n v.toNat) } :=
  if_neg (by omega)

/-- A write merges its bytes into the register that it lies in, within the register's mask. -/
theorem regWord_hostStore_same (s : State) (n : Nat) {a : Nat} (v : Word) {M : Word}
    (hM : registerMask (a / 4) = some M) :
    (s.hostStore n a v).regWord (a / 4) =
      mergeBytes (s.regWord (a / 4)) (a % 4) n v &&& M := by
  unfold registerMask at hM
  split at hM <;> cases hM
  next h =>
    rw [hostStore_arg s n v h, h]
    exact BitVec.and_allOnes.symm
  next h =>
    rw [hostStore_cfg s n v h, h]
    exact setWidth_setWidth_eq_and _ 5
  next h =>
    rw [hostStore_key1 s n v h, h]
    exact setWidth_setWidth_eq_and _ 8

/-- A write leaves every other register as it was, and the one it lies in too when HOST cannot write
it. -/
theorem regWord_hostStore_other (s : State) (n : Nat) {a r : Nat} (v : Word)
    (h : a / 4 = r → registerMask r = none) :
    (s.hostStore n a v).regWord r = s.regWord r := by
  have hne : ∀ k, (registerMask k).isSome → a / 4 = k → r ≠ k := by
    rintro k hk ha rfl
    simp [h ha] at hk
  rcases hostStore_cases s n a v with ⟨ha, he⟩ | ⟨ha, he⟩ | ⟨ha, he⟩ | ⟨_, _, _, _, he⟩ | ⟨_, he⟩
  case inr.inr.inr.inl => rw [he]
  case inr.inr.inr.inr =>
    rw [he]
    rfl
  all_goals
    have hr := hne _ (by rfl) ha
    rw [he]
    unfold State.regWord
    split <;> trivial

/-- Byte x of the register that a write lies in: the byte that was written where the write covers x,
within the register's mask. -/
theorem hostByte_hostStore_same (s : State) {n a x : Nat} (v : Word) {M : Word}
    (hfit : a % 4 + n ≤ 4) (hx : x < 0x100) (hreg : x / 4 = a / 4)
    (hM : registerMask (x / 4) = some M) :
    (s.hostStore n a v).hostByte x =
      (if a ≤ x ∧ x < a + n then BitVec.ofNat 8 (v.toNat / 256 ^ (x - a)) else s.hostByte x) &&&
        M.extractLsb' (8 * (x % 4)) 8 := by
  have hcover : (a % 4 ≤ x % 4 ∧ x % 4 < a % 4 + n) ↔ (a ≤ x ∧ x < a + n) := by omega
  rw [hreg] at hM
  rw [hostByte_reg _ x hx, hostByte_reg s x hx, hreg, regWord_hostStore_same s n v hM,
    BitVec.extractLsb'_and, mergeBytes_byte _ _ _ _ _ hfit (by omega),
    show x % 4 - a % 4 = x - a by omega]
  simp only [hcover]

theorem hostByte_and_mask (s : State) {x : Nat} {M : Word} (hx : x < 0x100)
    (hM : registerMask (x / 4) = some M) :
    s.hostByte x &&& M.extractLsb' (8 * (x % 4)) 8 = s.hostByte x := by
  rw [hostByte_reg s x hx, ← BitVec.extractLsb'_and, regWord_and_mask s hM]

/-- A write of a register leaves TBL and IMG alone. -/
theorem hostStore_reg_mem (s : State) (n : Nat) {a : Nat} (v : Word) (ha : a < 0x100) :
    (s.hostStore n a v).mem = s.mem := by
  rcases hostStore_cases s n a v with ⟨_, h⟩ | ⟨_, h⟩ | ⟨_, h⟩ | ⟨_, _, _, _, h⟩ | ⟨h, _⟩
  case inr.inr.inr.inr => omega
  all_goals rw [h]

/-! ## The bytes that a write changes -/

/-- An accepted access lies in one word of the host space (R34). -/
theorem access_in_word {n a : Nat} (hw : accessWellFormed n a = true) : a % 4 + n ≤ 4 := by
  obtain ⟨rfl | rfl | rfl, hmod, _⟩ := (accessWellFormed_iff n a).1 hw <;> omega

/-- A covered byte that HOST can write takes the written byte, within its writable bits. -/
theorem hostStore_covered (s : State) {n a x : Nat} (v : Word) {m : Byte}
    (hw : accessWellFormed n a = true) (hcover : a ≤ x ∧ x < a + n)
    (hm : writableBits x = some m) :
    (s.hostStore n a v).hostByte x = BitVec.ofNat 8 (v.toNat / 256 ^ (x - a)) &&& m := by
  have hword := access_in_word hw
  by_cases hx : x < 0x100
  · rw [writableBits_reg hx, Option.filter_eq_some_iff, Option.map_eq_some_iff] at hm
    obtain ⟨⟨M, hM, rfl⟩, _⟩ := hm
    rw [hostByte_hostStore_same s v hword hx (by omega) hM, if_pos hcover]
  · obtain ⟨_, _, hspace⟩ := (accessWellFormed_iff n a).1 hw
    rw [writableBits_mem (by omega) (by omega)] at hm
    obtain rfl := Option.some.inj hm
    rw [hostByte_mem _ x (by omega), hostStore_mem s n v (by omega), Memory.read_writeBytes,
      leBytes_length, if_pos hcover, leBytes_getD _ _ _ (by omega)]

/-- Every other byte is as before: one outside the write, or one that HOST cannot write. -/
theorem hostStore_kept (s : State) {n a x : Nat} (v : Word) (hw : accessWellFormed n a = true)
    (h : a ≤ x ∧ x < a + n → writableBits x = none) :
    (s.hostStore n a v).hostByte x = s.hostByte x := by
  obtain ⟨_, _, hspace⟩ := (accessWellFormed_iff n a).1 hw
  by_cases hx : x < 0x100
  · by_cases hreg : a / 4 = x / 4 → registerMask (x / 4) = none
    · rw [hostByte_reg _ x hx, hostByte_reg s x hx, regWord_hostStore_other s n v hreg]
    · obtain ⟨hreg, hsome⟩ := Classical.not_imp.1 hreg
      obtain ⟨M, hM⟩ := Option.ne_none_iff_exists'.1 hsome
      rw [hostByte_hostStore_same s v (access_in_word hw) hx hreg.symm hM]
      split
      next hcover =>
        have hzero : M.extractLsb' (8 * (x % 4)) 8 = 0 := by
          simpa [writableBits_reg hx, hM] using h hcover
        rw [← hostByte_and_mask s hx hM, hzero]
        exact BitVec.and_zero.trans BitVec.and_zero.symm
      next => exact hostByte_and_mask s hx hM
  · rw [hostByte_mem _ x (by omega), hostByte_mem s x (by omega)]
    by_cases ha : a < 0x100
    · rw [hostStore_reg_mem s n v ha]
    · have hout : ¬(a ≤ x ∧ x < a + n) := fun hcover => by
        simpa [writableBits_mem (x := x) (by omega) (by omega)] using h hcover
      rw [hostStore_mem s n v (by omega)]
      exact Memory.read_writeBytes_outside _ _ _ _ (by rw [leBytes_length]; omega)

/-- Everything but ARG, CFG, KEY1, TBL and IMG is left alone. -/
theorem hostStore_frame (s : State) (n a : Nat) (v : Word) :
    s.hostStore n a v = { s with
      arg := (s.hostStore n a v).arg
      cfg := (s.hostStore n a v).cfg
      key1 := (s.hostStore n a v).key1
      mem := (s.hostStore n a v).mem } := by
  rcases hostStore_cases s n a v with ⟨_, h⟩ | ⟨_, h⟩ | ⟨_, h⟩ | ⟨_, _, _, _, h⟩ | ⟨_, h⟩ <;> rw [h]

/-- Settles O11: byte by byte, a covered byte takes its writable bits and every other byte stays. -/
theorem hostWriteChangesItsWritableBytes : Obligations.HostWriteChangesItsWritableBytes := by
  intro s rest n a v hq hw hb hcmd
  refine ⟨({ s with hostQueue := rest } : State).hostStore n a v,
    (step_write hq hw).trans (hostWrite_store (by exact hb) hcmd v), fun x _ => ?_,
    hostStore_frame _ n a v⟩
  split
  next m hm =>
    split
    next hcover => exact hostStore_covered _ v hw hcover hm
    next hout => exact hostStore_kept _ v hw fun hcover => absurd hcover hout
  next hnone => exact hostStore_kept _ v hw fun _ => hnone

end Sys2Proof.Machine

/-! SUPPORT. Command words (R47, R48, R49): decoding is the inverse of encoding, a word is legal
exactly when it is the word of a command, and what the write of a command word does (R49, R50). -/

namespace Sys2Proof.Machine

/-! ## The fields of a command word -/

/-- A command word is its three fields side by side (R47). -/
theorem word_eq_fields (w : Word) : w = wordReserved w ++ wordSlot w ++ wordOp w := by
  apply BitVec.eq_of_getLsbD_eq
  intro k hk
  simp only [wordReserved, wordSlot, wordOp, BitVec.getLsbD_append, BitVec.getLsbD_extractLsb']
  grind

@[simp] theorem wordOp_encode (i : Instr) : wordOp (encode i) = i.op :=
  BitVec.extractLsb'_append_eq_right

@[simp] theorem wordSlot_encode (i : Instr) : wordSlot (encode i) = i.slotField := by
  apply BitVec.eq_of_getLsbD_eq
  intro k hk
  simp only [wordSlot, encode, BitVec.getLsbD_append, BitVec.getLsbD_extractLsb']
  grind

@[simp] theorem wordReserved_encode (i : Instr) : wordReserved (encode i) = 0 := by
  apply BitVec.eq_of_getLsbD_eq
  intro k hk
  simp only [wordReserved, encode, BitVec.getLsbD_append, BitVec.getLsbD_extractLsb']
  grind

/-- The word of a command, by its fields. -/
theorem encode_eq_iff (i : Instr) (w : Word) :
    encode i = w ↔ wordReserved w = 0 ∧ wordSlot w = i.slotField ∧ wordOp w = i.op := by
  constructor
  · rintro rfl
    simp
  · rintro ⟨hres, hslot, hop⟩
    rw [word_eq_fields w, hres, hslot, hop]
    rfl

/-! ## Decoding -/

theorem decodePlain_eq_ok_iff (j i : Instr) (x : BitVec 4) :
    decodePlain j x = .ok i ↔ x = 0 ∧ j = i := by
  unfold decodePlain
  split <;> simp_all

/-- An opcode with the slot field of its command decodes to the command. -/
theorem decodeOp_op (i : Instr) : decodeOp i.op i.slotField = .ok i := by
  cases i <;> rfl

/-- What decodes has the slot field of its command; `wordOp_of_decode` says it of the opcode. -/
theorem slotField_of_decodeOp {op : BitVec 8} {x : BitVec 4} {i : Instr}
    (h : decodeOp op x = .ok i) : x = i.slotField := by
  unfold decodeOp at h
  split at h
  case h_16 => cases h
  case h_8 | h_10 | h_11 => cases h; rfl
  all_goals
    obtain ⟨rfl, rfl⟩ := (decodePlain_eq_ok_iff _ _ _).1 h
    rfl

theorem decode_eq_ok_iff (w : Word) (i : Instr) :
    decode w = .ok i ↔ wordReserved w = 0 ∧ wordSlot w = i.slotField ∧ wordOp w = i.op := by
  constructor
  · intro h
    have hop := wordOp_of_decode h
    unfold decode at h
    split at h
    next hres => exact ⟨hres, slotField_of_decodeOp h, hop⟩
    next => cases h
  · rintro ⟨hres, hslot, hop⟩
    rw [decode, if_pos hres, hslot, hop, decodeOp_op]

/-- A word decodes to a command exactly when it is that command's word. -/
theorem decode_eq_ok_iff_encode_eq (w : Word) (i : Instr) : decode w = .ok i ↔ encode i = w :=
  (decode_eq_ok_iff w i).trans (encode_eq_iff i w).symm

theorem decode_encode (i : Instr) : decode (encode i) = .ok i :=
  (decode_eq_ok_iff_encode_eq _ i).2 rfl

/-- Settles O1: decoding and encoding are inverse, since both say the same of the word's fields. -/
theorem decodeAndEncodeAgree : Obligations.DecodeAndEncodeAgree :=
  ⟨decode_encode, fun w i => (decode_eq_ok_iff_encode_eq w i).1⟩

/-- Settles O3: the ten legal words are those of their commands, and each other word fails the
check that R49 names. -/
theorem specWordsDecode : Obligations.SpecWordsDecode :=
  ⟨decode_encode .fenc, decode_encode .stepf, decode_encode .amask, decode_encode (.csum 0),
    decode_encode (.csum 15), decode_encode (.renc 2), decode_encode (.rdec 15),
    decode_encode .idec, decode_encode .rdall, decode_encode .wrall, rfl, rfl, rfl, rfl⟩

/-! ## Which words are legal -/

theorem encode_legal (i : Instr) : legalWord (encode i) = true := by
  cases i
  case csum j => exact Laws.EncodeLegal.csum j
  case renc j => exact Laws.EncodeLegal.renc j
  case rdec j => exact Laws.EncodeLegal.rdec j
  all_goals rfl

theorem legalWord_iff (w : Word) :
    legalWord w = true ↔ wordOp w ∈ opcodeMap ∧ wordReserved w = 0 ∧
      (wordSlot w = 0 ∨ wordOp w ∈ slotOpcodes) := by
  simp [legalWord, and_assoc]

/-- Every opcode of the map decodes, with the slot field 0 or, where the opcode takes one, any
slot. -/
theorem exists_decodeOp {op : BitVec 8} {x : BitVec 4} (hop : op ∈ opcodeMap)
    (hslot : x = 0 ∨ op ∈ slotOpcodes) : ∃ i, decodeOp op x = .ok i := by
  by_cases hs : op ∈ slotOpcodes
  · simp only [slotOpcodes, List.mem_cons, List.not_mem_nil, or_false] at hs
    rcases hs with rfl | rfl | rfl <;> exact ⟨_, rfl⟩
  · obtain rfl := hslot.resolve_right hs
    simp only [opcodeMap, List.mem_cons, List.not_mem_nil, or_false] at hop
    rcases hop with rfl | rfl | rfl | rfl | rfl | rfl | rfl | rfl | rfl | rfl | rfl | rfl | rfl |
      rfl | rfl <;> exact ⟨_, rfl⟩

/-- The decoder and the legality test of R49 agree. -/
theorem exists_decode_iff_legalWord (w : Word) :
    (∃ i, decode w = .ok i) ↔ legalWord w = true := by
  constructor
  · rintro ⟨i, h⟩
    rw [← (decode_eq_ok_iff_encode_eq w i).1 h]
    exact encode_legal i
  · intro h
    obtain ⟨hop, hres, hslot⟩ := (legalWord_iff w).1 h
    rw [decode, if_pos hres]
    exact exists_decodeOp hop hslot

theorem wordOp_toNat (w : Word) : (wordOp w).toNat = w.toNat % 256 := by
  simp [wordOp, BitVec.extractLsb'_toNat]

theorem wordSlot_toNat (w : Word) : (wordSlot w).toNat = w.toNat / 256 % 16 := by
  simp [wordSlot, BitVec.extractLsb'_toNat, Nat.shiftRight_eq_div_pow]

theorem wordReserved_toNat (w : Word) : (wordReserved w).toNat = w.toNat / 4096 := by
  have := w.isLt
  simp [wordReserved, BitVec.extractLsb'_toNat, Nat.shiftRight_eq_div_pow]
  omega

/-- R49 in numbers: the opcode is w mod 256, the slot field the next four bits, the reserved bits
the rest. -/
theorem legalWord_iff_toNat (w : Word) :
    legalWord w = true ↔
      w.toNat % 256 ∈ [0x01, 0x02, 0x03, 0x04, 0x05, 0x06, 0x07, 0x08, 0x09, 0x10, 0x11, 0x12, 0x13,
        0x20, 0x21] ∧
      w.toNat / 4096 = 0 ∧
      (w.toNat / 256 % 16 = 0 ∨ w.toNat % 256 ∈ [0x08, 0x10, 0x11]) := by
  rw [legalWord_iff, ← wordOp_toNat, ← wordSlot_toNat, ← wordReserved_toNat]
  simp [opcodeMap, slotOpcodes, BitVec.toNat_eq]

/-! ## The write of a command word -/

/-- A 4-byte write to CMD while no command runs issues its word (R36, R50). -/
theorem step_write_command {s : State} {rest : List HostAct} {w : Word}
    (hq : s.hostQueue = .write 4 0 w :: rest) (hb : s.status.busy = false) :
    step s = issue w { s with hostQueue := rest } :=
  (step_write hq (by decide)).trans (hostWrite_command (by exact hb) w)

theorem issue_legal {w : Word} {i : Instr} (h : decode w = .ok i) (s : State) :
    issue w s = exec i (s.startCommand w) := by
  rw [issue, h]

theorem issue_illegal {w : Word} (h : ∀ i, decode w ≠ .ok i) (s : State) :
    issue w s = .next ((s.startCommand w).endWithError illegalCommandFailure) := by
  unfold issue
  split
  next i hi => exact absurd hi (h i)
  next => rfl

/-- ERRINFO of an illegal command: PHASE CMD, every other field 0 (R160). -/
theorem illegalCommandFailure_toWord : illegalCommandFailure.info.toWord = 0x01000000 := by
  decide

/-- Settles O4: the write issues the word, which R50 starts as `State.startCommand` says. -/
theorem stepRunsDecodedCommand : Obligations.StepRunsDecodedCommand := by
  intro s rest w i hq hb hi
  rw [step_write_command hq hb, issue_legal hi]
  rfl

/-- Settles O2: legality is that of R49 in numbers, and an illegal word's write starts a command
that ends at once with IllegalCommand. -/
theorem illegalWordEndsInIllegalCommand : Obligations.IllegalWordEndsInIllegalCommand := by
  refine ⟨fun w => (exists_decode_iff_legalWord w).trans (legalWord_iff_toNat w),
    fun s rest w hq hb hill => ⟨_, (step_write_command hq hb).trans (issue_illegal hill _), ?_⟩⟩
  exact ⟨rfl, rfl, rfl, rfl, rfl, illegalCommandFailure_toWord, rfl, rfl, fun _ => rfl, rfl, rfl,
    rfl⟩

end Sys2Proof.Machine

/-! SUPPORT. The CODEC commands on the record buffers (R51, R53, R54, R98..R104): the two ways each
of them ends and what it leaves alone, and the bytes that RENC and RDEC write. -/

namespace Sys2Proof.Machine

open Sys2Proof.Config

/-! ## The ends of a CODEC command -/

theorem finishField_cases (s : State) (ph : ErrPhase) (r : Except ErrorKind Word) :
    (∃ v, s.finishField ph r = s.succeed v) ∨ ∃ f, s.finishField ph r = s.endWithError f := by
  cases r with
  | ok v => exact .inl ⟨v, rfl⟩
  | error k => exact .inr ⟨_, rfl⟩

/-- Everything a CODEC command can do: it stores to the buffers or ACTMASK and succeeds, or it
stores nothing and ends in an error (R51, R162). -/
theorem exec_codec_cases {i : Instr} {s t : State} (hi : isCodec i = true)
    (h : exec i s = .next t) :
    (∃ m k v, t = State.succeed { s with mem := m, actMask := k } v) ∨
    ∃ f, t = s.endWithError f := by
  cases i <;> obtain rfl := Host.Outcome.next.inj h
  case rdall | wrall => cases hi
  case fenc | fdec | stepf | tenc | tdec | gdec =>
    rcases finishField_cases s _ _ with ⟨v, hv⟩ | ⟨f, hf⟩
    · exact .inl ⟨s.mem, s.actMask, v, hv⟩
    · exact .inr ⟨f, hf⟩
  case genc | csum | amask => exact .inl ⟨_, _, _, rfl⟩
  case renc | rdec | ienc | idec =>
    split
    · exact .inl ⟨_, _, _, rfl⟩
    · exact .inr ⟨_, rfl⟩

/-- Settles O33: both ends of a CODEC command keep the frame. -/
theorem codecCommandFrame : Obligations.CodecCommandFrame := by
  intro i s t hi h
  rcases exec_codec_cases hi h with ⟨m, k, v, rfl⟩ | ⟨f, rfl⟩
  · simp [State.succeed, Status.succeeded]
  · simp [State.endWithError, Status.errored]

/-! ## RDEC of an empty record -/

theorem recordEmpty_readRecord_iff (m : Memory) (i : SlotIx) :
    recordEmpty (readRecord m i) = true ↔
      m.read (0x200 + 32 * i.val) = 0xFF ∨ m.read (0x200 + 32 * i.val + 5) = 0xFF := by
  have h0 : recByte (readRecord m i) 0 = m.read (0x200 + 32 * i.val) :=
    readRecord_getD m i 0 (by omega)
  simp [recordEmpty, h0, readRecord_getD m i 5 (by omega), emptyMarker]

theorem exec_rdec_ok {s : State} {i : SlotIx} {e : TblEntry}
    (h : decodeRecord s.par s.cfg (readRecord s.mem i) = .ok e) :
    exec (.rdec i) s = .next
      (State.succeed { s with mem := writeEntry s.mem i e }
        ((BitVec.ofBool e.rxv).setWidth 32)) := by
  rw [exec, execRdec, h]

theorem empty_bytes : TblEntry.empty.bytes = List.replicate 16 0 := by decide

/-- Settles O25: the record decodes to the empty entry, whose sixteen bytes are 0. -/
theorem rdecEmptyRecordClearsEntry : Obligations.RdecEmptyRecordClearsEntry := by
  intro s i hempty
  have hdec : decodeRecord s.par s.cfg (readRecord s.mem i) = .ok TblEntry.empty :=
    if_pos ((recordEmpty_readRecord_iff s.mem i).2 hempty)
  refine ⟨writeEntry s.mem i TblEntry.empty, exec_rdec_ok hdec, fun k hk => ?_,
    writeEntry_outside s.mem i TblEntry.empty⟩
  have hbyte : TblEntry.empty.bytes.getD k 0 = 0 := by
    rw [empty_bytes, List.getD_replicate _ hk]
  rw [writeEntry_read s.mem i _ k hk, hbyte]
  exact BitVec.zero_and

/-! ## RENC of a slot in use -/

/-- The fields of an entry that encodes, each by its own encoder (R98). -/
def entryFields (p : Params) (cfg : BitVec 5) (e : TblEntry) : RecordFields :=
  { rf := (freqEnc cfg e.rxf.toNat).toOption.getD []
    rs := (stepFlag e.rxf.toNat).toOption.getD 0
    rt := (toneEnc p cfg e.rxt.toNat).toOption.getD []
    g := flagsEnc cfg e.power e.width e.scan
    tx :=
      if e.txv then
        some ((freqEnc cfg e.txf.toNat).toOption.getD [], (stepFlag e.txf.toNat).toOption.getD 0,
          (toneEnc p cfg e.txt.toNat).toOption.getD [])
      else none }

/-- The fields fill the room the layout gives them: four bytes a frequency, two a tone (R53). -/
structure RecordFields.Fit (x : RecordFields) : Prop where
  rf : x.rf.length = 4
  rt : x.rt.length = 2
  tx : ∀ tf ts tt, x.tx = some (tf, ts, tt) → tf.length = 4 ∧ tt.length = 2

theorem freqEnc_length {cfg : BitVec 5} {f : Nat} {b : List Byte} (h : freqEnc cfg f = .ok b) :
    b.length = 4 := by
  rcases freqEnc_cases cfg f with ⟨_, _, _, _, _, h', _⟩ | ⟨_, h'⟩ <;> rw [h] at h' <;> cases h'
  rfl

theorem toneEnc_length {p : Params} {cfg : BitVec 5} {t : Nat} {b : List Byte}
    (h : toneEnc p cfg t = .ok b) : b.length = 2 := by
  rcases toneEnc_cases p cfg t with ⟨_, _, _, h'⟩ | ⟨_, h'⟩ <;> rw [h] at h' <;> cases h'
  rfl

theorem inField_eq_ok {α : Type} {fld : RecField} {r : Except ErrorKind α} {a : α}
    (h : inField fld r = .ok a) : r = .ok a := by
  cases r <;> cases h
  rfl

theorem bind_eq_ok {ε α β : Type} {x : Except ε α} {f : α → Except ε β} {b : β}
    (h : (x >>= f) = .ok b) : ∃ a, x = .ok a ∧ f a = .ok b := by
  cases x with
  | ok a => exact ⟨a, rfl, h⟩
  | error e => cases h

theorem encodeFreqStep_ok {cfg : BitVec 5} {f : Word} {ff fs : RecField} {x : List Byte × Byte}
    (h : encodeFreqStep cfg f ff fs = .ok x) :
    freqEnc cfg f.toNat = .ok x.1 ∧ stepFlag f.toNat = .ok x.2 := by
  obtain ⟨fb, hfb, h⟩ := bind_eq_ok h
  obtain ⟨st, hst, h⟩ := bind_eq_ok h
  cases h
  exact ⟨inField_eq_ok hfb, inField_eq_ok hst⟩

theorem encodeReceiveOnly_ok {p : Params} {cfg : BitVec 5} {e : TblEntry} {x : RecordFields}
    (htx : e.txv = false) (h : encodeReceiveOnly p cfg e = .ok x) :
    x = entryFields p cfg e ∧ x.Fit := by
  obtain ⟨rx, hrx, h⟩ := bind_eq_ok h
  obtain ⟨rt, hrt, h⟩ := bind_eq_ok h
  cases h
  obtain ⟨hrf, hrs⟩ := encodeFreqStep_ok hrx
  have hrt := inField_eq_ok hrt
  refine ⟨?_, freqEnc_length hrf, toneEnc_length hrt, fun _ _ _ h => by cases h⟩
  simp [entryFields, hrf, hrs, hrt, htx, Except.toOption]

theorem encodeDuplex_ok {p : Params} {cfg : BitVec 5} {e : TblEntry} {x : RecordFields}
    (htx : e.txv = true) (h : encodeDuplex p cfg e = .ok x) :
    x = entryFields p cfg e ∧ x.Fit := by
  obtain ⟨rx, hrx, h⟩ := bind_eq_ok h
  obtain ⟨tx, htxf, h⟩ := bind_eq_ok h
  obtain ⟨rt, hrt, h⟩ := bind_eq_ok h
  obtain ⟨tt, htt, h⟩ := bind_eq_ok h
  cases h
  obtain ⟨hrf, hrs⟩ := encodeFreqStep_ok hrx
  obtain ⟨htf, hts⟩ := encodeFreqStep_ok htxf
  have hrt := inField_eq_ok hrt
  have htt := inField_eq_ok htt
  refine ⟨?_, freqEnc_length hrf, toneEnc_length hrt, fun _ _ _ h => ?_⟩
  · simp [entryFields, hrf, hrs, hrt, htf, hts, htt, htx, Except.toOption]
  · cases h
    exact ⟨freqEnc_length htf, toneEnc_length htt⟩

/-- The record of a slot in use whose fields encode is those fields, laid out (R98). -/
theorem encodeRecord_used {p : Params} {cfg : BitVec 5} {e : TblEntry} (n : Nat)
    (hrx : e.rxv = true) (henc : firstEncodeError p cfg e = none) :
    encodeRecord p cfg e n = .ok (layRecord p cfg n (entryFields p cfg e)) ∧
      (entryFields p cfg e).Fit := by
  rcases encodeRecord_cases p cfg e n with ⟨_, r, hr⟩ | ⟨fld, hfld, _⟩
  · have hx : ∀ x, (if e.txv then encodeDuplex p cfg e else encodeReceiveOnly p cfg e) = .ok x →
        x = entryFields p cfg e ∧ x.Fit := by
      intro x hx
      split at hx
      next htx => exact encodeDuplex_ok htx hx
      next htx => exact encodeReceiveOnly_ok (by simpa using htx) hx
    rw [encodeRecord, if_pos hrx] at hr ⊢
    split at hr
    next x hxe =>
      obtain ⟨rfl, hfit⟩ := hx x hxe
      exact ⟨rfl, hfit⟩
    next => cases hr
  · rw [henc] at hfld
    cases hfld

/-- The record with the receive fields laid and the transmit ones still empty. -/
def receiveRecord (p : Params) (cfg : BitVec 5) (n : Nat) (x : RecordFields) : List Byte :=
  (putBytes ((putBytes ((emptyRecord p cfg).set 0 (BitVec.ofNat 8 n)) 2 x.rf).set p.stepRxOff x.rs)
    12 x.rt).set 17 x.g

theorem layRecord_eq (p : Params) (cfg : BitVec 5) (n : Nat) (x : RecordFields) :
    layRecord p cfg n x = layTx p (receiveRecord p cfg n x) x.tx := rfl

@[simp] theorem receiveRecord_length (p : Params) (cfg : BitVec 5) (n : Nat) (x : RecordFields) :
    (receiveRecord p cfg n x).length = 32 := by
  simp [receiveRecord]

theorem receiveRecord_getD (p : BlockParams) (cfg : BitVec 5) (n : Nat) {x : RecordFields}
    (hx : x.Fit) {k : Nat} (hk : k < 32) :
    (receiveRecord p.raw cfg n x).getD k 0 =
      if k = 0 then BitVec.ofNat 8 n
      else if 2 ≤ k ∧ k < 6 then x.rf.getD (k - 2) 0
      else if k = p.raw.stepRxOff then x.rs
      else if 12 ≤ k ∧ k < 14 then x.rt.getD (k - 12) 0
      else if k = 17 then x.g
      else emptyByte p.raw cfg k := by
  obtain ⟨hlt, hrx, _, _, _⟩ := stepOffsets_spec p
  obtain ⟨h0, hfreq, htone, h17⟩ := not_fieldOffset hrx
  rw [receiveRecord, getD_set _ _ _ _ (by simp), putBytes_getD _ _ _ _ (by simp [hx.rt]),
    getD_set _ _ _ _ (by simpa using hlt), putBytes_getD _ _ _ _ (by simp [hx.rf]),
    getD_set _ _ _ _ (by simp), emptyRecord_getD p cfg k hk, hx.rf, hx.rt]
  grind

theorem layTx_getD (p : Params) {r : List Byte} (hr : r.length = 32) (hp : p.stepTxOff < 32)
    {tf : List Byte} {tt : List Byte} (hf : tf.length = 4) (ht : tt.length = 2) (ts : Byte)
    (k : Nat) :
    (layTx p r (some (tf, ts, tt))).getD k 0 =
      if 14 ≤ k ∧ k < 16 then tt.getD (k - 14) 0
      else if k = p.stepTxOff then ts
      else if 6 ≤ k ∧ k < 10 then tf.getD (k - 6) 0
      else r.getD k 0 := by
  rw [layTx, putBytes_getD _ _ _ _ (by simp [hr, ht]), getD_set _ _ _ _ (by simpa [hr] using hp),
    putBytes_getD _ _ _ _ (by simp [hr, hf]), hf, ht]

/-- Every byte of an encoded record is the one that the layout gives (R53, R98, R99, R101). -/
theorem layRecord_entryFields_getD (p : BlockParams) (cfg : BitVec 5) (e : TblEntry) (n : Nat)
    (hx : (entryFields p.raw cfg e).Fit) {k : Nat} (hk : k < 32) :
    (layRecord p.raw cfg n (entryFields p.raw cfg e)).getD k 0 = recordByte p.raw cfg e n k := by
  obtain ⟨_, hrxOff, hlt, htxOff, hne⟩ := stepOffsets_spec p
  have htxField := not_fieldOffset htxOff
  have hrxField := not_fieldOffset hrxOff
  rw [layRecord_eq, recordByte]
  cases he : e.txv with
  | false =>
    have hnone : (entryFields p.raw cfg e).tx = none := by simp [entryFields, he]
    rw [hnone, layTx, receiveRecord_getD p cfg n hx hk]
    simp [entryFields]
  | true =>
    obtain ⟨tf, ts, tt, hsome⟩ : ∃ tf ts tt, (entryFields p.raw cfg e).tx = some (tf, ts, tt) := by
      simp [entryFields, he]
    obtain ⟨hf, ht⟩ := hx.tx tf ts tt hsome
    rw [hsome, layTx_getD p.raw (receiveRecord_length _ _ _ _) hlt hf ht,
      receiveRecord_getD p cfg n hx hk]
    simp only [entryFields, he, if_true, Option.some.injEq, Prod.mk.injEq] at hsome
    obtain ⟨rfl, rfl, rfl⟩ := hsome
    simp only [entryFields]
    by_cases htone : 14 ≤ k ∧ k < 16
    · grind
    by_cases hstep : k = p.raw.stepTxOff
    · grind
    by_cases hfreq : 6 ≤ k ∧ k < 10 <;> grind

theorem exec_renc_ok {s : State} {i : SlotIx} {r : List Byte}
    (h : encodeRecord s.par s.cfg (readEntry s.mem i) i.number = .ok r) :
    exec (.renc i) s = .next
      (State.succeed { s with mem := writeRecord s.mem i r } ((checksum r).setWidth 32)) := by
  rw [exec, execRenc, h]

theorem readBytes_eq_map (m : Memory) (a n : Nat) :
    m.readBytes a n = (List.range n).map fun k => m.read (a + k) := by
  apply List.ext_getElem (by simp)
  intro k hk _
  have h := Memory.readBytes_getD m n a k (by simpa using hk)
  rw [List.getD_eq_getElem _ _ hk] at h
  simpa using h

theorem readRecord_eq_map (m : Memory) (i : SlotIx) :
    readRecord m i = (List.range 32).map fun k => m.read (0x200 + 32 * i.val + k) := by
  rw [← imgAddr_eq]
  exact readBytes_eq_map m (imgAddr i) 32

/-- The checksum in a register is the sum of the bytes modulo 256 (R87, R95). -/
theorem checksum_setWidth (d : List Byte) :
    (checksum d).setWidth 32 = BitVec.ofNat 32 ((d.map BitVec.toNat).sum % 256) := by
  apply BitVec.eq_of_toNat_eq
  simp [checksum]

/-- The checksum of a record, taken from the bytes of IMG that hold it. -/
theorem checksum_readRecord (m : Memory) (i : SlotIx) :
    (checksum (readRecord m i)).setWidth 32 = BitVec.ofNat 32
      (((List.range 32).map fun k => (m.read (0x200 + 32 * i.val + k)).toNat).sum % 256) := by
  rw [checksum_setWidth, readRecord_eq_map, List.map_map]
  rfl

/-- Settles O23: the record encodes, is laid out byte by byte as R53 says, and reads back from IMG
with its checksum. -/
theorem rencUsedSlotWritesRecord : Obligations.RencUsedSlotWritesRecord := by
  intro s i hrx henc
  obtain ⟨hrec, hfit⟩ := encodeRecord_used i.number hrx henc
  have hlen := encodeRecord_length hrec
  refine ⟨writeRecord s.mem i _, ?_, fun k hk => ?_, writeRecord_outside s.mem i _ hlen⟩
  · rw [exec_renc_ok hrec, ← checksum_readRecord, readRecord_writeRecord _ _ _ hlen]
  · rw [writeRecord_read _ _ _ hlen k hk]
    exact layRecord_entryFields_getD s.params s.cfg _ _ hfit hk

end Sys2Proof.Machine

/-! SUPPORT. What the block sends (R56, R57): only a phase with an outbound frame performs a TX, of
the next byte of its frame, and each frame is what R56 writes out. -/

namespace Sys2Proof.Machine

open Sys2Proof.Config

/-! ## Which phases send -/

/-- The event that an operation adds to the trace is one. -/
theorem event_unique {s t : State} {ev ev' : Event} (h : t.trace = s.trace ++ [ev])
    (h' : t.trace = s.trace ++ [ev']) : ev = ev' :=
  List.singleton_inj.1 (List.append_cancel_left (h.symm.trans h'))

theorem check_trace (s : State) (key : Byte) (ph : ErrPhase) (slot : Nat) {pass : State → State}
    (hp : ∀ t : State, (pass t).trace = t.trace) :
    (s.check key ph slot pass).trace = s.trace ++ [.rx 1 (s.rxAnswer 1)] := by
  rcases check_cases s key ph slot pass with ⟨_, _, _, h⟩ | ⟨_, h⟩ | ⟨_, _, _, h⟩ <;>
    simp [h, hp]

theorem receive_trace (s : State) (n : Nat) (ph : ErrPhase) (slot : Nat)
    {pass : List Byte → State → State} (hp : ∀ d (t : State), (pass d t).trace = t.trace) :
    (s.receive n ph slot pass).trace = s.trace ++ [.rx n (s.rxAnswer n)] := by
  rcases receive_cases s n ph slot pass with ⟨_, _, h⟩ | ⟨_, h⟩ <;> simp [h, hp]

theorem stepOpen_trace (s : State) :
    s.stepOpen.trace = s.trace ++ [.openLink s.openAnswer] := by
  rcases stepOpen_cases s with ⟨ha, h⟩ | ⟨ha, h⟩ <;> simp [h, ha]

theorem stepListen_trace (s : State) :
    s.stepListen.trace = s.trace ++ [.rx 1 (s.rxAnswer 1)] := by
  rcases stepListen_cases s with ⟨_, _, _, h⟩ | ⟨_, h⟩ | ⟨_, _, _, h⟩ <;> simp [h]

theorem stepTermCheck_trace (s : State) :
    s.stepTermCheck.trace = s.trace ++ [.rx 1 (s.rxAnswer 1)] := by
  rcases stepTermCheck_cases s with ⟨_, h⟩ | ⟨_, _, _, _, h⟩ | ⟨_, _, _, h⟩ <;> simp [h]

theorem stepTermClose_trace (s : State) : s.stepTermClose.trace = s.trace ++ [.close] := by
  rcases stepTermClose_cases s with ⟨_, _, h⟩ | ⟨_, h⟩ <;> simp [h]

/-- A phase whose step performs a TX is one that sends a frame: any other performs an event of
another kind, or none. -/
theorem sends_of_tx {s : State} {p : SeqPhase} {b : Byte}
    (h : (s.seqPhase p).trace = s.trace ++ [.tx b]) : p.sends = true := by
  cases p
  case idle => simp [State.seqPhase] at h
  case openLink => cases event_unique h (stepOpen_trace s)
  case listen => cases event_unique h (stepListen_trace s)
  case baud => cases event_unique h (ev' := .baud s.par.baudHigh) rfl
  case echo0 | conf1Echo => cases event_unique h (check_trace s _ _ _ fun _ => rfl)
  case conf2Echo =>
    cases event_unique h
      (check_trace s _ _ _ fun t => firstTransaction_trace (t.setSession .keyExchanged))
  case readCheck => cases event_unique h (check_trace s _ _ _ commitRead_trace)
  case writeCheck g => cases event_unique h (check_trace s _ _ _ (commitWrite_trace · g))
  case ident | resp | readData => cases event_unique h (receive_trace s _ _ _ fun _ _ => rfl)
  case termCheck => cases event_unique h (stepTermCheck_trace s)
  case termClose => cases event_unique h (stepTermClose_trace s)
  case progReq | verReq | keySend | conf1 | mark | conf2 | readDesc | readAck | writeDesc
      | writeData | writeSum | termSend => rfl

/-! ## Which byte is sent -/

theorem sendFrame_tx {s : State} {p : SeqPhase} {b : Byte}
    (h : (s.sendFrame p).trace = s.trace ++ [.tx b]) : (s.frame p)[s.seq.sent]? = some b := by
  rcases sendFrame_cases s p with ⟨c, hc, _, he⟩ | ⟨c, hc, _, he⟩ | ⟨_, he⟩
  · cases event_unique h (ev' := .tx c) (by rw [he])
    exact hc
  · cases event_unique h (ev' := .tx c) (by rw [he])
    exact hc
  · simp [he] at h

/-- R57: a byte that a step of SEQ sends is the next unsent one of the phase's frame. -/
theorem frame_byte_of_tx {s : State} {p : SeqPhase} {b : Byte}
    (h : (s.seqPhase p).trace = s.trace ++ [.tx b]) : (s.frame p)[s.seq.sent]? = some b := by
  have hsends := sends_of_tx h
  cases p
  case readDesc | writeDesc =>
    have hact := sendFrame_tx (s := s.activate) (b := b) (by rw [activate_trace]; exact h)
    rwa [activate_frame, activate_seq] at hact
  case progReq | verReq | keySend | conf1 | mark | conf2 | readAck | writeData | writeSum
      | termSend =>
    exact sendFrame_tx h
  all_goals cases hsends

/-! ## The frames -/

theorem readRecordOf_eq_map (m : Memory) (n : Nat) :
    readRecordOf m n = (List.range 32).map fun k => m.read (0x200 + 32 * (n - 1) + k) :=
  readBytes_eq_map m (imgAddrOf n) 32

@[simp] theorem readRecordOf_length (m : Memory) (n : Nat) : (readRecordOf m n).length = 32 :=
  Memory.readBytes_length m 32 _

/-- The checksum of the bitmask's two bytes is their wraparound sum (R87, R145). -/
theorem checksum_maskBytes (m : BitVec 16) :
    checksum (maskBytes m) = m.extractLsb' 0 8 + m.extractLsb' 8 8 := by
  apply BitVec.eq_of_toNat_eq
  simp [checksum, maskBytes, BitVec.extractLsb'_toNat]

/-- Settles O48: a byte sent is the next of its phase's frame (`frame_byte_of_tx`), and the frames
are those of R56, phase by phase. -/
theorem sentByteIsTheFramesNextByte : Obligations.SentByteIsTheFramesNextByte := by
  intro s t b _ hb hturn hstep htrace
  obtain ⟨r, hr⟩ := step_seqTurn hturn hb
  obtain rfl := Host.Outcome.next.inj (hr.symm.trans hstep)
  have htx : (s.seqPhase s.seq.phase).trace = s.trace ++ [.tx b] := htrace
  refine ⟨s.frame s.seq.phase, frame_byte_of_tx htx, ?_⟩
  have hsends := sends_of_tx htx
  cases hp : s.seq.phase
  case progReq | verReq | keySend | conf1 | mark | conf2 | readAck | termSend => rfl
  case readDesc => exact ⟨_, rfl, rfl⟩
  case writeDesc g =>
    cases g
    case scanKey => exact ⟨_, _, rfl, rfl, rfl⟩
    case mask => exact ⟨_, _, rfl, rfl, rfl⟩
    case slot => exact ⟨_, _, rfl, rfl, by simp [State.writeBytesOf]⟩
  case writeData g =>
    cases g
    case scanKey | mask => rfl
    case slot =>
      simp [State.frame, State.writeBytesOf, readRecordOf_eq_map, xorBytes]
  case writeSum g =>
    cases g
    case scanKey => rfl
    case mask => simp [State.frame, State.writeBytesOf, checksum_maskBytes]
    case slot =>
      simp [State.frame, State.writeBytesOf, readRecordOf_eq_map, checksum, Function.comp_def]
  all_goals simp [hp, SeqPhase.sends] at hsends

end Sys2Proof.Machine

/-! SUPPORT. The field-codec commands (R88..R95): a command's outcome is that of its field function,
whose values are given in the arithmetic of the statements. -/

namespace Sys2Proof.Machine

open Sys2Proof.Config

/-! ## How a field-codec command ends -/

theorem exec_fenc (s : State) : exec .fenc s =
    .next (s.finishField .encode ((freqEnc s.cfg s.arg.toNat).map resOfBytes)) := rfl

theorem exec_fdec (s : State) : exec .fdec s =
    .next (s.finishField .decode ((freqDec s.cfg (argBytes s.arg 4)).map (BitVec.ofNat 32))) := rfl

theorem exec_stepf (s : State) : exec .stepf s =
    .next (s.finishField .encode ((stepFlag s.arg.toNat).map (BitVec.setWidth 32))) := rfl

theorem exec_tenc (s : State) : exec .tenc s =
    .next (s.finishField .encode ((toneEnc s.par s.cfg s.arg.toNat).map resOfBytes)) := rfl

theorem exec_tdec (s : State) : exec .tdec s =
    .next (s.finishField .decode
      ((toneDec s.par s.cfg (argBytes s.arg 2)).map (BitVec.ofNat 32))) := rfl

theorem exec_genc (s : State) : exec .genc s = .next (s.succeed
    ((flagsEnc s.cfg (s.arg.getLsbD 0) (s.arg.getLsbD 1) (s.arg.getLsbD 2)).setWidth 32)) := rfl

theorem exec_gdec (s : State) : exec .gdec s =
    .next (s.finishField .decode ((flagsDec s.cfg (argByte s.arg 0)).map flagsWord)) := rfl

theorem exec_csum (s : State) (i : SlotIx) :
    exec (.csum i) s = .next (s.succeed ((checksum (readRecord s.mem i)).setWidth 32)) := rfl

/-- A command whose field function gives a value succeeds with its word. -/
theorem exec_field_ok {α : Type} {i : Instr} {s : State} {ph : ErrPhase} {r : Except ErrorKind α}
    {f : α → Word} {a : α} {v : Word} (hexec : exec i s = .next (s.finishField ph (r.map f)))
    (h : r = .ok a) (hv : f a = v) : exec i s = .next (s.succeed v) := by
  rw [hexec, h, ← hv]
  rfl

/-- A command whose field function raises an error ends in it. -/
theorem exec_field_error {α : Type} {i : Instr} {s : State} {ph : ErrPhase}
    {r : Except ErrorKind α} {f : α → Word} {k : ErrorKind}
    (hexec : exec i s = .next (s.finishField ph (r.map f))) (h : r = .error k) :
    exec i s = .next (s.endWithError (fieldFailure ph k)) := by
  rw [hexec, h]
  rfl

/-! ## CSUM -/

/-- Settles O20: the checksum is taken from the record's bytes in IMG. -/
theorem csumResult : Obligations.CsumResult := by
  intro s i
  rw [exec_csum, checksum_readRecord]

/-! ## Frequencies: decimal digits in packed bytes -/

theorem freqEnc_variantA {cfg : BitVec 5} (h : cfgFreqSel cfg = false) (f : Nat) :
    freqEnc cfg f = freqEncA f := by
  simp [freqEnc, h]

theorem freqEnc_variantB {cfg : BitVec 5} (h : cfgFreqSel cfg = true) (f : Nat) :
    freqEnc cfg f = freqEncB f := by
  simp [freqEnc, h]

theorem freqDec_variantA {cfg : BitVec 5} (h : cfgFreqSel cfg = false) (b : List Byte) :
    freqDec cfg b = freqDecA b := by
  simp [freqDec, h]

theorem freqDec_variantB {cfg : BitVec 5} (h : cfgFreqSel cfg = true) (b : List Byte) :
    freqDec cfg b = .ok (freqDecB b) := by
  simp [freqDec, h]

/-- Outside its variant's range a frequency does not encode (R62, R66). -/
theorem freqEnc_error {cfg : BitVec 5} {f : Nat} (h : freqEncodable cfg f = false) :
    freqEnc cfg f = .error .encodingError :=
  ((freqEnc_cases cfg f).resolve_left fun hok => by simp [h] at hok).2

theorem spellDecimal_zero (f : Nat) : spellDecimal f 0 = 0 := rfl

/-- A packed byte spells two decimal digits. -/
theorem spellDecimal_add_two (f n : Nat) :
    spellDecimal f (n + 2) = (bcd2 (f % 100)).toNat + 256 * spellDecimal (f / 100) n := by
  have hdiv : f / 10 / 10 = f / 100 := Nat.div_div_eq_div_mul f 10 10
  rw [bcd2_toNat _ (by omega), spellDecimal, spellDecimal, hdiv]
  omega

theorem freqEncA_value {f : Nat} (h : 10000000 ≤ f ∧ f ≤ 99999999) :
    ∃ b, freqEncA f = .ok b ∧ leNat b = spellDecimal f 8 := by
  have htop : f / 1000000 % 100 = f / 1000000 := Nat.mod_eq_of_lt (by omega)
  refine ⟨_, if_neg (by omega), ?_⟩
  simp only [leNat, spellDecimal_add_two, spellDecimal_zero, Nat.div_div_eq_div_mul,
    Nat.reduceMul, htop]

theorem freqEncB_value {f : Nat} (h : f ≤ 99999999) :
    ∃ b, freqEncB f = .ok b ∧ leNat b = 0xFF + 256 * spellDecimal (f / 100) 6 := by
  refine ⟨_, if_neg (by omega), ?_⟩
  simp only [leNat, spellDecimal_add_two, spellDecimal_zero, Nat.div_div_eq_div_mul,
    Nat.reduceMul, BitVec.reduceToNat]

/-- Settles O12: in range the packed bytes spell the digits, out of range nothing encodes. -/
theorem fencResult : Obligations.FencResult := by
  intro s
  refine ⟨fun hA => ⟨fun hr => ?_, fun hr => ?_⟩, fun hB => ⟨fun hr => ?_, fun hr => ?_⟩⟩
  · obtain ⟨b, henc, hval⟩ := freqEncA_value hr
    exact exec_field_ok (exec_fenc s) ((freqEnc_variantA hA _).trans henc)
      (by rw [resOfBytes, hval])
  · exact exec_field_error (exec_fenc s) (freqEnc_error (by simp [freqEncodable, hA]; omega))
  · obtain ⟨b, henc, hval⟩ := freqEncB_value hr
    exact exec_field_ok (exec_fenc s) ((freqEnc_variantB hB _).trans henc)
      (by rw [resOfBytes, hval])
  · exact exec_field_error (exec_fenc s) (freqEnc_error (by simp [freqEncodable, hr]))

/-- The weighted sum of the bytes of a number is that of its nibbles (R64, R68). -/
theorem bcdSum_leBytes (n : Nat) : ∀ w : Nat, bcdSum (leBytes n w) = readDecimal w (2 * n) := by
  induction n with
  | zero => intro w; rfl
  | succ n ih =>
    intro w
    have hdiv : w / 16 / 16 = w / 256 := Nat.div_div_eq_div_mul w 16 16
    rw [leBytes, bcdSum, bcdValue_ofNat, ih, Nat.mul_succ, readDecimal, readDecimal, hdiv]
    omega

/-- The bytes of a number are packed decimal exactly when its nibbles are decimal digits (R64). -/
theorem all_bcdOk_leBytes (n : Nat) :
    ∀ w : Nat, (leBytes n w).all bcdOk = nibblesDecimal w (2 * n) := by
  induction n with
  | zero => intro w; rfl
  | succ n ih =>
    intro w
    rw [leBytes, List.all_cons, bcdOk_ofNat, ih, Nat.mul_succ, nibblesDecimal, nibblesDecimal,
      Nat.div_div_eq_div_mul, Bool.and_assoc]

/-- Settles O13: Variant A reads the four bytes of ARG, Variant B the three above byte 0. -/
theorem fdecResult : Obligations.FdecResult := by
  intro s
  refine ⟨fun hA => ⟨fun hd => ?_, fun hd => ?_⟩, fun hB => ?_⟩
  · rw [← all_bcdOk_leBytes 4] at hd
    exact exec_field_ok (exec_fdec s) ((freqDec_variantA hA _).trans (if_pos hd))
      (congrArg _ (bcdSum_leBytes 4 _))
  · rw [← all_bcdOk_leBytes 4] at hd
    exact exec_field_error (exec_fdec s)
      ((freqDec_variantA hA _).trans (if_neg (ne_true_of_eq_false hd)))
  · rw [← bcdSum_leBytes 3, Nat.mul_comm]
    exact exec_field_ok (exec_fdec s) (freqDec_variantB hB _) rfl

/-! ## The step flag -/

theorem stepFlag_congr {f g : Nat} (h : f % 100000 = g % 100000) : stepFlag f = stepFlag g := by
  rw [stepFlag, stepFlag, h]

theorem stepFlag_1250 {f : Nat} (h : f % 100000 % 1250 = 0) : stepFlag f = .ok 2 := by
  rw [stepFlag, if_pos h]

theorem stepFlag_500 {f : Nat} (h500 : f % 100000 % 500 = 0) (h1250 : f % 100000 % 1250 ≠ 0) :
    stepFlag f = .ok 1 := by
  rw [stepFlag, if_neg h1250, if_pos h500]

theorem stepFlag_750 {f : Nat} (h750 : f % 100000 % 750 = 0) (h500 : f % 100000 % 500 ≠ 0)
    (h1250 : f % 100000 % 1250 ≠ 0) : stepFlag f = .ok 0 := by
  rw [stepFlag, if_neg h1250, if_neg h500, if_pos h750]

/-- 250 divides 100000, so it divides a frequency exactly when it divides the five decimals (R72). -/
theorem stepFlag_250 {f : Nat} (h250 : f % 250 = 0) (h750 : f % 100000 % 750 ≠ 0)
    (h500 : f % 100000 % 500 ≠ 0) (h1250 : f % 100000 % 1250 ≠ 0) : stepFlag f = .ok 3 := by
  rw [stepFlag, if_neg h1250, if_neg h500, if_neg h750, if_pos (by omega)]

theorem stepFlag_error {f : Nat} (h : f % 250 ≠ 0) : stepFlag f = .error .encodingError :=
  ((stepFlag_cases f).resolve_left fun hok => by simp [h] at hok).2

/-- Settles O14: one branch of the divisor table for each clause of R72. -/
theorem stepfResult : Obligations.StepfResult := by
  intro s
  refine ⟨fun h => exec_field_error (exec_stepf s) (stepFlag_error h),
    fun h250 => ⟨?_, ?_, ?_, ?_⟩, fun _ _ => stepFlag_congr⟩
  · exact fun h1250 => exec_field_ok (exec_stepf s) (stepFlag_1250 h1250) rfl
  · rintro ⟨h500, h1250⟩
    exact exec_field_ok (exec_stepf s) (stepFlag_500 h500 h1250) rfl
  · rintro ⟨h750, h500, h1250⟩
    exact exec_field_ok (exec_stepf s) (stepFlag_750 h750 h500 h1250) rfl
  · rintro ⟨h750, h500, h1250⟩
    exact exec_field_ok (exec_stepf s) (stepFlag_250 h250 h750 h500 h1250) rfl

/-! ## Tones -/

theorem toneEnc_variantA {cfg : BitVec 5} (h : cfgToneSel cfg = false) (p : Params) (t : Nat) :
    toneEnc p cfg t = toneEncA p t := by
  simp [toneEnc, h]

theorem toneEnc_variantB {cfg : BitVec 5} (h : cfgToneSel cfg = true) (p : Params) (t : Nat) :
    toneEnc p cfg t = toneEncB t := by
  simp [toneEnc, h]

theorem toneDec_variantA {cfg : BitVec 5} (h : cfgToneSel cfg = false) (p : Params)
    (b : List Byte) : toneDec p cfg b = toneDecA p b := by
  simp [toneDec, h]

theorem toneDec_variantB {cfg : BitVec 5} (h : cfgToneSel cfg = true) (p : Params)
    (b : List Byte) : toneDec p cfg b = .ok (toneDecB b) := by
  simp [toneDec, h]

/-- A tone that its variant does not encode raises EncodingError (R76, R79). -/
theorem toneEnc_error {p : Params} {cfg : BitVec 5} {t : Nat} (h : toneEncodable p cfg t = false) :
    toneEnc p cfg t = .error .encodingError :=
  ((toneEnc_cases p cfg t).resolve_left fun hok => by simp [h] at hok).2

/-- A pair that its variant does not decode raises DecodeError (R77, R80). -/
theorem toneDec_error {p : Params} {cfg : BitVec 5} {b : List Byte}
    (h : toneDecodable p cfg b = false) : toneDec p cfg b = .error .decodeError :=
  ((toneDec_cases p cfg b).resolve_left fun hok => by simp [h] at hok).2

/-- A table tone encodes to its entry's bytes: the tones are distinct and not 0 (R75, R76). -/
theorem toneEncA_entry (p : BlockParams) {e : ToneEntry} (he : e ∈ p.raw.toneTableA) :
    toneEncA p.raw e.tone.toNat = .ok e.bytes := by
  obtain ⟨htones, _, hentry⟩ := toneTable_spec p
  have hne : e.tone.toNat ≠ 0 := fun h => (hentry e he).1 (BitVec.eq_of_toNat_eq h)
  have hnodup : (p.raw.toneTableA.map fun x => x.tone.toNat).Nodup := by
    simpa [Function.comp_def] using
      htones.map (f := BitVec.toNat) fun _ _ => BitVec.eq_of_toNat_eq
  rw [toneEncA, if_neg hne, find?_of_nodup _ _ hnodup e he]

theorem eq_setWidth_iff_toNat (w : Word) (t : BitVec 16) :
    w = t.setWidth 32 ↔ w.toNat = t.toNat := by
  have := t.isLt
  rw [BitVec.toNat_eq, BitVec.toNat_setWidth, Nat.mod_eq_of_lt (by omega)]

theorem toNat_append_byte {n : Nat} (x : BitVec n) (b : Byte) :
    (x ++ b).toNat = b.toNat + 256 * x.toNat := by
  rw [BitVec.toNat_append, ← Nat.shiftLeft_add_eq_or_of_lt b.isLt, Nat.shiftLeft_eq]
  omega

/-- RES of a two-byte field: byte 0 lowest, the upper half 0 (R33). -/
theorem resOfBytes_pair (b0 b1 : Byte) : resOfBytes [b0, b1] = 0#16 ++ b1 ++ b0 := by
  apply BitVec.eq_of_toNat_eq
  have h0 := b0.isLt
  have h1 := b1.isLt
  rw [toNat_append_byte, toNat_append_byte, resOfBytes, BitVec.toNat_ofNat]
  simp only [leNat, BitVec.toNat_ofNat]
  omega

/-- The two field bytes of ARG are its low half (R33). -/
theorem argBytes_two_eq_iff (w : Word) (b0 b1 : Byte) :
    argBytes w 2 = [b0, b1] ↔ w.extractLsb' 0 16 = b1 ++ b0 := by
  have h0 := b0.isLt
  have h1 := b1.isLt
  rw [BitVec.toNat_eq, toNat_append_byte, BitVec.extractLsb'_toNat]
  simp [argBytes, leBytes, BitVec.toNat_eq]
  omega

theorem toneEncB_value {t : Nat} (h : t ≤ 0xFFFF) : ∃ b, toneEncB t = .ok b ∧ leNat b = t := by
  refine ⟨_, if_neg (by omega), ?_⟩
  rw [leNat_leBytes, Nat.mod_eq_of_lt (by omega)]

/-- The number of the two field bytes of ARG is its low half (R33). -/
theorem resOfBytes_argBytes_two (w : Word) :
    resOfBytes (argBytes w 2) = (w.extractLsb' 0 16).setWidth 32 := by
  apply BitVec.eq_of_toNat_eq
  rw [resOfBytes, argBytes, leNat_leBytes]
  simp [BitVec.extractLsb'_toNat]

/-- Settles O15: "no tone" and a table tone give their bytes and a number in range its own two; any
other tone does not encode. -/
theorem tencResult : Obligations.TencResult := by
  intro s
  refine ⟨fun hA => ⟨fun h0 => ?_, fun e he htone => ?_, fun h0 hnot => ?_⟩,
    fun hB => ⟨fun hr => ?_, fun hr => ?_⟩⟩
  · exact exec_field_ok (exec_tenc s) ((toneEnc_variantA hA _ _).trans (if_pos (by rw [h0]; rfl)))
      (resOfBytes_pair _ _)
  · have henc : toneEncA s.par s.arg.toNat = .ok e.bytes := by
      rw [(eq_setWidth_iff_toNat _ _).1 htone]
      exact toneEncA_entry s.params he
    exact exec_field_ok (exec_tenc s) ((toneEnc_variantA hA _ _).trans henc) (resOfBytes_pair _ _)
  · have hzero : s.arg.toNat ≠ 0 := fun h => h0 (BitVec.eq_of_toNat_eq h)
    have htable : ∀ e ∈ s.params.raw.toneTableA, e.tone.toNat ≠ s.arg.toNat := fun e he h =>
      hnot e he ((eq_setWidth_iff_toNat _ _).2 h.symm)
    apply exec_field_error (exec_tenc s) (toneEnc_error _)
    simpa [toneEncodable, hA, hzero] using htable
  · obtain ⟨b, henc, hval⟩ := toneEncB_value hr
    exact exec_field_ok (exec_tenc s) ((toneEnc_variantB hB _ _).trans henc)
      (by rw [resOfBytes, hval, BitVec.ofNat_toNat, BitVec.setWidth_eq])
  · exact exec_field_error (exec_tenc s) (toneEnc_error (by simp [toneEncodable, hB]; omega))

/-- Settles O16: a table pair decodes because its tone encodes to it. -/
theorem tdecResult : Obligations.TdecResult := by
  intro s
  refine ⟨fun hA => ⟨fun h0 => ?_, fun e he hpair => ?_, fun h0 hnot => ?_⟩, fun hB => ?_⟩
  · exact exec_field_ok (exec_tdec s) ((toneDec_variantA hA _ _).trans
      (if_pos ((argBytes_two_eq_iff _ _ _).2 h0))) rfl
  · have henc : toneEnc s.par s.cfg e.tone.toNat = .ok (argBytes s.arg 2) := by
      rw [(argBytes_two_eq_iff _ _ _).2 hpair, toneEnc_variantA hA]
      exact toneEncA_entry s.params he
    exact exec_field_ok (exec_tdec s) (toneDec_toneEnc s.params henc) (BitVec.ofNat_toNat _ _)
  · have hnone : argBytes s.arg 2 ≠ s.params.raw.noToneA := mt (argBytes_two_eq_iff _ _ _).1 h0
    have htable : ∀ e ∈ s.params.raw.toneTableA, e.bytes ≠ argBytes s.arg 2 := fun e he h =>
      hnot e he ((argBytes_two_eq_iff _ _ _).1 h.symm)
    apply exec_field_error (exec_tdec s) (toneDec_error _)
    simpa [toneDecodable, hA, hnone] using htable
  · exact exec_field_ok (exec_tdec s) (toneDec_variantB hB _ _) (resOfBytes_argBytes_two s.arg)

/-! ## Flags -/

theorem flagsEncA_eq_flagsEncB : ∀ power width scan : Bool,
    flagsEncA power width scan = flagsEncB power width scan := by
  decide

/-- Both variants encode the same byte (R86). -/
theorem flagsEnc_eq_flagsEncB (cfg : BitVec 5) (power width scan : Bool) :
    flagsEnc cfg power width scan = flagsEncB power width scan := by
  rw [flagsEnc, flagsEncA_eq_flagsEncB, ite_self]

theorem flagsDecB_flagsEncB : ∀ power width scan : Bool,
    flagsDecB (flagsEncB power width scan) = (power, width, scan) := by
  decide

theorem flagsDecA_flagsEncA : ∀ power width scan : Bool,
    flagsDecA (flagsEncA power width scan) = .ok (power, width, scan) := by
  decide

theorem flagsEncA_mem_canonical : ∀ power width scan : Bool, flagsEncA power width scan ∈
    ([0xCC, 0xCD, 0xDC, 0xDD, 0xEC, 0xED, 0xFC, 0xFD] : List Byte) := by
  decide

/-- The encoder gives back each canonical byte of R86. -/
theorem flagsEncA_flagsDecB :
    ∀ b ∈ ([0xCC, 0xCD, 0xDC, 0xDD, 0xEC, 0xED, 0xFC, 0xFD] : List Byte),
      flagsEncA (flagsDecB b).1 (flagsDecB b).2.1 (flagsDecB b).2.2 = b := by
  decide

/-- Settles O19: each decoder inverts its encoder, and a canonical byte is the encoding of what
`flagsDecB` reads, so `flagsDecA` reads the same. -/
theorem flagsEncodersAgreeAndInvert : Obligations.FlagsEncodersAgreeAndInvert := by
  refine ⟨fun p w c => ⟨flagsEncA_eq_flagsEncB p w c, flagsEncA_mem_canonical p w c,
    flagsDecA_flagsEncA p w c, flagsDecB_flagsEncB p w c⟩, fun b hb => ?_⟩
  have henc := flagsEncA_flagsDecB b hb
  refine ⟨?_, henc⟩
  calc flagsDecA b
      = flagsDecA (flagsEncA (flagsDecB b).1 (flagsDecB b).2.1 (flagsDecB b).2.2) := by rw [henc]
    _ = .ok (flagsDecB b) := flagsDecA_flagsEncA _ _ _

theorem flagsEncB_setWidth : ∀ power width scan : Bool,
    (flagsEncB power width scan).setWidth 32 =
      0xCC#32 ||| ((BitVec.ofBool power).setWidth 32 <<< 5) |||
        ((BitVec.ofBool !scan).setWidth 32 <<< 4) ||| (BitVec.ofBool width).setWidth 32 := by
  decide

/-- Settles O17: each bit of the byte is a bit of ARG, taken alone by the mask 1. -/
theorem gencResult : Obligations.GencResult := by
  intro s
  rw [exec_genc, flagsEnc_eq_flagsEncB, flagsEncB_setWidth]
  simp [BitVec.and_one_eq_setWidth_ofBool_getLsbD]

theorem flagsWord_eq : ∀ power width scan : Bool, flagsWord (power, width, scan) =
    BitVec.ofNat 32 (power.toNat + 2 * width.toNat + 4 * scan.toNat) := by
  decide

theorem flagsDec_variantA {cfg : BitVec 5} (h : cfgFlagSel cfg = false) (b : Byte) :
    flagsDec cfg b = flagsDecA b := by
  simp [flagsDec, h]

theorem flagsDec_variantB {cfg : BitVec 5} (h : cfgFlagSel cfg = true) (b : Byte) :
    flagsDec cfg b = .ok (flagsDecB b) := by
  simp [flagsDec, h]

theorem argByte_zero_toNat (w : Word) : (argByte w 0).toNat = w.toNat % 256 := by
  simp [argByte, BitVec.extractLsb'_toNat]

theorem loNibble_argByte_zero (w : Word) : loNibble (argByte w 0) = w.toNat % 16 := by
  rw [loNibble_eq, argByte_zero_toNat]
  omega

theorem hiNibble_argByte_zero (w : Word) : hiNibble (argByte w 0) = w.toNat / 16 % 16 := by
  rw [hiNibble_eq, argByte_zero_toNat]
  omega

/-- A bit of ARG[7:0] as a number. -/
theorem argByte_zero_getLsbD_toNat (w : Word) {k : Nat} (hk : k < 8) :
    ((argByte w 0).getLsbD k).toNat = w.toNat / 2 ^ k % 2 := by
  rw [argByte, BitVec.getLsbD_extractLsb', decide_eq_true hk, Bool.true_and, Nat.mul_zero,
    Nat.zero_add, ← BitVec.testBit_toNat, Nat.toNat_testBit]

theorem flagsDecA_ok {b : Byte} (h : loNibble b = 0xC ∨ loNibble b = 0xD) :
    flagsDecA b =
      .ok (decide (0xE ≤ hiNibble b), decide (loNibble b = 0xD), decide (hiNibble b % 2 = 0)) := by
  rcases h with h | h <;> simp [flagsDecA, h]

/-- RES of a byte that Variant A decodes, by its nibbles (R83, R94). -/
theorem flagsDecA_value {b : Byte} (h : loNibble b = 0xC ∨ loNibble b = 0xD) :
    ∃ g, flagsDecA b = .ok g ∧ flagsWord g = BitVec.ofNat 32
      ((if 0xE ≤ hiNibble b then 1 else 0) + 2 * (loNibble b - 0xC) +
        4 * (1 - hiNibble b % 2)) := by
  have hwidth : (decide (loNibble b = 0xD)).toNat = loNibble b - 0xC := by
    rcases h with h | h <;> simp [h]
  have hscan : (decide (hiNibble b % 2 = 0)).toNat = 1 - hiNibble b % 2 := by
    rcases Nat.mod_two_eq_zero_or_one (hiNibble b) with h | h <;> simp [h]
  refine ⟨_, flagsDecA_ok h, ?_⟩
  rw [flagsWord_eq, hwidth, hscan, Bool.toNat, Bool.cond_decide]

theorem toNat_not : ∀ x : Bool, (!x).toNat = 1 - x.toNat := by
  decide

/-- RES of any byte in Variant B, by its bits (R85, R94). -/
theorem flagsWord_flagsDecB (w : Word) :
    flagsWord (flagsDecB (argByte w 0)) = BitVec.ofNat 32
      (w.toNat / 32 % 2 + 2 * (w.toNat % 2) + 4 * (1 - w.toNat / 16 % 2)) := by
  rw [flagsDecB, flagsWord_eq, toNat_not]
  simp only [argByte_zero_getLsbD_toNat, Nat.reduceLT, Nat.reducePow, Nat.div_one]

theorem flagsDecA_error {b : Byte} (h : ¬(loNibble b = 0xC ∨ loNibble b = 0xD)) :
    flagsDecA b = .error .decodeError := by
  rw [not_or] at h
  rw [flagsDecA, if_neg h.1, if_neg h.2]

/-- Settles O18: Variant A reads the nibbles of ARG[7:0], Variant B three of its bits. -/
theorem gdecResult : Obligations.GdecResult := by
  intro s
  refine ⟨fun hA => ?_, fun hB => ?_⟩
  · have hscan : s.arg.toNat / 16 % 2 = hiNibble (argByte s.arg 0) % 2 := by
      rw [hiNibble_argByte_zero]
      omega
    rw [← loNibble_argByte_zero, ← hiNibble_argByte_zero, hscan]
    refine ⟨fun h => ?_, fun h => ?_⟩
    · obtain ⟨g, hdec, hval⟩ := flagsDecA_value h
      exact exec_field_ok (exec_gdec s) ((flagsDec_variantA hA _).trans hdec) hval
    · exact exec_field_error (exec_gdec s) ((flagsDec_variantA hA _).trans (flagsDecA_error h))
  · exact exec_field_ok (exec_gdec s) (flagsDec_variantB hB _) (flagsWord_flagsDecB s.arg)

end Sys2Proof.Machine

/-! SUPPORT. The round trip of a record (R102..R106): what the decode of a record in use says of its
entry, from which bytes it is read, and that it takes an encoded record back to its entry. -/

namespace Sys2Proof.Machine

open Sys2Proof.Config

/-! ## The bytes of a record -/

theorem recSlice_eq_map {r : List Byte} {o n : Nat} (h : o + n ≤ r.length) :
    recSlice r o n = (List.range n).map fun k => recByte r (o + k) := by
  apply List.ext_getElem
  · simp [recSlice]
    omega
  · intro k hk hk'
    have hk : k < n := by simpa using hk'
    simp [recSlice, recByte, List.getElem?_eq_getElem (show o + k < r.length by omega)]

theorem recSlice_congr {r r' : List Byte} {o o' n : Nat} (h : o + n ≤ r.length)
    (h' : o' + n ≤ r'.length) (hb : ∀ k, k < n → recByte r (o + k) = recByte r' (o' + k)) :
    recSlice r o n = recSlice r' o' n := by
  rw [recSlice_eq_map h, recSlice_eq_map h']
  exact List.map_congr_left fun k hk => hb k (List.mem_range.1 hk)

/-- A slice is the list whose bytes stand there. -/
theorem recSlice_eq {r b : List Byte} {o : Nat} (h : o + b.length ≤ r.length)
    (hb : ∀ k, k < b.length → recByte r (o + k) = b.getD k 0) : recSlice r o b.length = b := by
  calc recSlice r o b.length
      = recSlice b 0 b.length := recSlice_congr h (by simp) fun k hk => by
          rw [hb k hk, Nat.zero_add, recByte]
    _ = b := by simp [recSlice]

/-- Settles O28: the emptiness test, the test of byte 9 and every field slice read the same. -/
theorem decodeIgnoresSlotNumberAndReservedBytes :
    Obligations.DecodeIgnoresSlotNumberAndReservedBytes := by
  intro p cfg r r' hr hr' h0 h0' hreads
  have hslice : ∀ o n, o + n ≤ 32 → (∀ k, k < n → decodeReads (o + k) = true) →
      recSlice r o n = recSlice r' o n := fun o n hn hk =>
    recSlice_congr (by omega) (by omega) fun k hkn => hreads _ (hk k hkn)
  have hempty : recordEmpty r = recordEmpty r' := by
    rw [recordEmpty, recordEmpty, emptyMarker, beq_false_of_ne h0, beq_false_of_ne h0',
      hreads 5 rfl]
  have habsent : recordTxAbsent r = recordTxAbsent r' := by
    rw [recordTxAbsent, recordTxAbsent, hreads 9 rfl]
  have hrxf := hslice 2 4 (by omega) (by decide)
  have htxf := hslice 6 4 (by omega) (by decide)
  have hrxt := hslice 12 2 (by omega) (by decide)
  have htxt := hslice 14 2 (by omega) (by decide)
  simp only [decodeRecord, decodeReceiveOnly, decodeDuplex, hempty, habsent, hrxf, htxf, hrxt, htxt,
    hreads 17 rfl]

/-! ## What the decode of a record in use says of its entry -/

/-- The entry `e` holds the fields of the non-empty record `r`, the transmit ones 0 when byte 9
marks the transmit frequency absent (R102, R103). -/
structure DecodesTo (p : Params) (cfg : BitVec 5) (r : List Byte) (e : TblEntry) : Prop where
  rxv : e.rxv = true
  txv : e.txv = !recordTxAbsent r
  rxf : freqDec cfg (recSlice r 2 4) = .ok e.rxf.toNat
  rxt : toneDec p cfg (recSlice r 12 2) = .ok e.rxt.toNat
  flags : flagsDec cfg (recByte r 17) = .ok (e.power, e.width, e.scan)
  txAbsent : recordTxAbsent r = true → e.txf = 0 ∧ e.txt = 0
  txPresent : recordTxAbsent r = false → freqDec cfg (recSlice r 6 4) = .ok e.txf.toNat ∧
    toneDec p cfg (recSlice r 14 2) = .ok e.txt.toNat

theorem decodeRecord_of_decodesTo {p : Params} {cfg : BitVec 5} {r : List Byte} {e : TblEntry}
    (hne : recordEmpty r = false) (h : DecodesTo p cfg r e) : decodeRecord p cfg r = .ok e := by
  obtain ⟨hrxv, htxv, hrxf, hrxt, hflags, habsent, hpresent⟩ := h
  obtain ⟨rxf, txf, rxt, txt, rxv, txv, power, width, scan⟩ := e
  dsimp only at *
  subst hrxv htxv
  cases htx : recordTxAbsent r with
  | true =>
    obtain ⟨rfl, rfl⟩ := habsent htx
    simp [decodeRecord, hne, htx, decodeReceiveOnly, hrxf, hrxt, hflags, inField, bind, Except.bind,
      pure, Except.pure, TblEntry.empty]
  | false =>
    obtain ⟨htxf, htxt⟩ := hpresent htx
    simp [decodeRecord, hne, htx, decodeDuplex, hrxf, hrxt, htxf, htxt, hflags, inField, bind,
      Except.bind, pure, Except.pure]

/-- A byte's nibbles, digits or not, make at most 15 * 10 + 15. -/
theorem bcdSum_le (b : List Byte) : 99 * bcdSum b + 165 ≤ 165 * 100 ^ b.length := by
  induction b with
  | nil => simp [bcdSum]
  | cons x b ih =>
    have hx : bcdValue x ≤ 165 := by
      have := x.isLt
      rw [bcdValue, hiNibble_eq, loNibble_eq]
      omega
    rw [bcdSum, List.length_cons, pow_succ]
    omega

/-- A decoded frequency fits an entry's 32-bit field. -/
theorem freqDec_lt {cfg : BitVec 5} {b : List Byte} {f : Nat} (hb : b.length ≤ 4)
    (h : freqDec cfg b = .ok f) : f < 2 ^ 32 := by
  unfold freqDec freqDecA freqDecB at h
  split at h
  · cases h
    have := bcdSum_le (b.drop 1)
    have hdrop : (b.drop 1).length ≤ 3 := by
      rw [List.length_drop]
      omega
    have : 100 ^ (b.drop 1).length ≤ 100 ^ 3 := Nat.pow_le_pow_right (by omega) hdrop
    omega
  · split at h <;> cases h
    have := bcdSum_le b
    have : 100 ^ b.length ≤ 100 ^ 4 := Nat.pow_le_pow_right (by omega) hb
    omega

/-- A decoded tone fits an entry's 16-bit field. -/
theorem toneDec_lt {p : Params} {cfg : BitVec 5} {b : List Byte} {t : Nat} (hb : b.length ≤ 2)
    (h : toneDec p cfg b = .ok t) : t < 2 ^ 16 := by
  unfold toneDec toneDecA toneDecB at h
  split at h
  · cases h
    have := leNat_lt b
    have : 256 ^ b.length ≤ 256 ^ 2 := Nat.pow_le_pow_right (by omega) hb
    omega
  · split at h
    · cases h
      omega
    · split at h <;> cases h
      exact BitVec.isLt _

theorem freqDec_recSlice_toNat {cfg : BitVec 5} {r : List Byte} {o f : Nat}
    (h : freqDec cfg (recSlice r o 4) = .ok f) :
    freqDec cfg (recSlice r o 4) = .ok (BitVec.ofNat 32 f).toNat := by
  rw [h, BitVec.toNat_ofNat, Nat.mod_eq_of_lt (freqDec_lt (by simp [recSlice]) h)]

theorem toneDec_recSlice_toNat {p : Params} {cfg : BitVec 5} {r : List Byte} {o t : Nat}
    (h : toneDec p cfg (recSlice r o 2) = .ok t) :
    toneDec p cfg (recSlice r o 2) = .ok (BitVec.ofNat 16 t).toNat := by
  rw [h, BitVec.toNat_ofNat, Nat.mod_eq_of_lt (toneDec_lt (by simp [recSlice]) h)]

theorem decodesTo_of_decodeRecord {p : Params} {cfg : BitVec 5} {r : List Byte} {e : TblEntry}
    (hne : recordEmpty r = false) (h : decodeRecord p cfg r = .ok e) : DecodesTo p cfg r e := by
  rw [decodeRecord, hne] at h
  cases htx : recordTxAbsent r with
  | true =>
    simp only [htx, Bool.false_eq_true, if_false, if_true] at h
    obtain ⟨rxf, hrxf, h⟩ := bind_eq_ok h
    obtain ⟨rxt, hrxt, h⟩ := bind_eq_ok h
    obtain ⟨g, hg, h⟩ := bind_eq_ok h
    cases h
    exact ⟨rfl, by simp [htx, TblEntry.empty], freqDec_recSlice_toNat (inField_eq_ok hrxf),
      toneDec_recSlice_toNat (inField_eq_ok hrxt), inField_eq_ok hg, fun _ => ⟨rfl, rfl⟩,
      by simp [htx]⟩
  | false =>
    simp only [htx, Bool.false_eq_true, if_false] at h
    obtain ⟨rxf, hrxf, h⟩ := bind_eq_ok h
    obtain ⟨txf, htxf, h⟩ := bind_eq_ok h
    obtain ⟨rxt, hrxt, h⟩ := bind_eq_ok h
    obtain ⟨txt, htxt, h⟩ := bind_eq_ok h
    obtain ⟨g, hg, h⟩ := bind_eq_ok h
    cases h
    exact ⟨rfl, by simp [htx], freqDec_recSlice_toNat (inField_eq_ok hrxf),
      toneDec_recSlice_toNat (inField_eq_ok hrxt), inField_eq_ok hg,
      by simp [htx],
      fun _ => ⟨freqDec_recSlice_toNat (inField_eq_ok htxf),
        toneDec_recSlice_toNat (inField_eq_ok htxt)⟩⟩

/-! ## The bytes that the decode of an encoded record reads -/

theorem encodeRecord_getD (p : BlockParams) {cfg : BitVec 5} {e : TblEntry} {n : Nat}
    {r : List Byte} (hrx : e.rxv = true) (henc : firstEncodeError p.raw cfg e = none)
    (hr : encodeRecord p.raw cfg e n = .ok r) {k : Nat} (hk : k < 32) :
    recByte r k = recordByte p.raw cfg e n k := by
  obtain ⟨hlay, hfit⟩ := encodeRecord_used n hrx henc
  rw [hr] at hlay
  cases hlay
  exact layRecord_entryFields_getD p cfg e n hfit hk

/-- No template byte stands at a field's offset (R97). -/
theorem emptyByte_fieldOffset (p : BlockParams) (cfg : BitVec 5) {k : Nat}
    (hk : k ∈ fieldOffsets) :
    emptyByte p.raw cfg k = 0xFF := by
  have hnone : p.raw.templateB.find? (fun ov => ov.1 == k) = none := by
    rw [List.find?_eq_none]
    intro ov hov heq
    obtain ⟨_, hoff, _⟩ := (template_spec p).2 ov hov
    exact hoff (by simpa using beq_iff_eq.1 heq ▸ hk)
  rw [emptyByte, hnone]
  simp

theorem stepRxOff_not_field (p : BlockParams) :
    p.raw.stepRxOff ≠ 0 ∧ ¬(2 ≤ p.raw.stepRxOff ∧ p.raw.stepRxOff < 10) ∧
      ¬(12 ≤ p.raw.stepRxOff ∧ p.raw.stepRxOff < 16) ∧ p.raw.stepRxOff ≠ 17 := by
  obtain ⟨_, hoff, _⟩ := stepOffsets_spec p
  exact not_fieldOffset hoff

theorem stepTxOff_not_field (p : BlockParams) :
    p.raw.stepTxOff ≠ 0 ∧ ¬(2 ≤ p.raw.stepTxOff ∧ p.raw.stepTxOff < 10) ∧
      ¬(12 ≤ p.raw.stepTxOff ∧ p.raw.stepTxOff < 16) ∧ p.raw.stepTxOff ≠ 17 := by
  obtain ⟨_, _, _, hoff, _⟩ := stepOffsets_spec p
  exact not_fieldOffset hoff

/-! Each field's bytes of an encoded record, the step flags and the template being elsewhere
(R53). -/

section
variable (p : BlockParams) (cfg : BitVec 5) (e : TblEntry) (n : Nat) {k : Nat}

theorem recordByte_rxf (hk : k < 4) : recordByte p.raw cfg e n (2 + k) =
    ((freqEnc cfg e.rxf.toNat).toOption.getD []).getD k 0 := by
  rw [recordByte, if_neg (by omega), if_pos (by omega), Nat.add_sub_cancel_left]

theorem recordByte_rxt (hk : k < 2) : recordByte p.raw cfg e n (12 + k) =
    ((toneEnc p.raw cfg e.rxt.toNat).toOption.getD []).getD k 0 := by
  have hrxOff := stepRxOff_not_field p
  rw [recordByte, if_neg (by omega), if_neg (by omega), if_neg (by omega), if_pos (by omega),
    Nat.add_sub_cancel_left]

theorem recordByte_flags : recordByte p.raw cfg e n 17 = flagsEnc cfg e.power e.width e.scan := by
  have hrxOff := stepRxOff_not_field p
  rw [recordByte, if_neg (by omega), if_neg (by omega), if_neg (by omega), if_neg (by omega),
    if_pos rfl]

theorem recordByte_txf (htx : e.txv = true) (hk : k < 4) : recordByte p.raw cfg e n (6 + k) =
    ((freqEnc cfg e.txf.toNat).toOption.getD []).getD k 0 := by
  have hrxOff := stepRxOff_not_field p
  rw [recordByte, if_neg (by omega), if_neg (by omega), if_neg (by omega), if_neg (by omega),
    if_neg (by omega), if_pos ⟨htx, by omega⟩, Nat.add_sub_cancel_left]

theorem recordByte_txt (htx : e.txv = true) (hk : k < 2) : recordByte p.raw cfg e n (14 + k) =
    ((toneEnc p.raw cfg e.txt.toNat).toOption.getD []).getD k 0 := by
  have hrxOff := stepRxOff_not_field p
  have htxOff := stepTxOff_not_field p
  rw [recordByte, if_neg (by omega), if_neg (by omega), if_neg (by omega), if_neg (by omega),
    if_neg (by omega), if_neg (by omega), if_neg (by omega), if_pos ⟨htx, by omega⟩,
    Nat.add_sub_cancel_left]

/-- Byte 9 of a receive-only record keeps the empty marker (R101). -/
theorem recordByte_nine_of_receiveOnly (htx : e.txv = false) :
    recordByte p.raw cfg e n 9 = emptyMarker := by
  have hrxOff := stepRxOff_not_field p
  rw [recordByte, if_neg (by omega), if_neg (by omega), if_neg (by omega), if_neg (by omega),
    if_neg (by omega), if_neg (by simp [htx]), if_neg (by simp [htx]), if_neg (by simp [htx])]
  exact emptyByte_fieldOffset p cfg (by decide)

end

/-! ## The decode of an encoded record -/

theorem encodable_of_firstEncodeError_none {p : Params} {cfg : BitVec 5} {e : TblEntry}
    (hrx : e.rxv = true) (h : firstEncodeError p cfg e = none) :
    freqEncodable cfg e.rxf.toNat = true ∧ toneEncodable p cfg e.rxt.toNat = true ∧
      (e.txv = true → freqEncodable cfg e.txf.toNat = true ∧
        toneEncodable p cfg e.txt.toNat = true) := by
  rw [firstEncodeError, if_pos hrx, Option.map_eq_none_iff, List.find?_eq_none] at h
  have hpass : ∀ c ∈ encodeChecks p cfg e, c.1 = true := fun c hc => by simpa using h c hc
  exact ⟨hpass (freqEncodable cfg e.rxf.toNat, .rxf) (by simp [encodeChecks]),
    hpass (toneEncodable p cfg e.rxt.toNat, .rxt) (by simp [encodeChecks]),
    fun htx => ⟨hpass (freqEncodable cfg e.txf.toNat, .txf) (by simp [encodeChecks, htx]),
      hpass (toneEncodable p cfg e.txt.toNat, .txt) (by simp [encodeChecks, htx])⟩⟩

/-- Four record bytes that a frequency was encoded into decode to it, and the last is no empty
marker. -/
theorem freqDec_recSlice_of_bytes {cfg : BitVec 5} {r : List Byte} {o f : Nat}
    (ho : o + 4 ≤ r.length) (hf : freqEncodable cfg f = true)
    (h100 : cfgFreqSel cfg = true → f % 100 = 0)
    (hb : ∀ k, k < 4 → recByte r (o + k) = ((freqEnc cfg f).toOption.getD []).getD k 0) :
    freqDec cfg (recSlice r o 4) = .ok f ∧ recByte r (o + 3) ≠ emptyMarker := by
  rcases freqEnc_cases cfg f with ⟨_, b0, b1, b2, b3, henc, hne⟩ | ⟨hno, _⟩
  · rw [henc] at hb
    have hslice : recSlice r o 4 = [b0, b1, b2, b3] := recSlice_eq (b := [b0, b1, b2, b3]) ho hb
    rw [hslice, hb 3 (by omega)]
    exact ⟨freqDec_freqEnc henc h100, hne⟩
  · rw [hf] at hno
    cases hno

/-- Two record bytes that a tone was encoded into decode to it. -/
theorem toneDec_recSlice_of_bytes (p : BlockParams) {cfg : BitVec 5} {r : List Byte} {o : Nat}
    {t : BitVec 16} (ho : o + 2 ≤ r.length) (ht : toneEncodable p.raw cfg t.toNat = true)
    (hb : ∀ k, k < 2 →
      recByte r (o + k) = ((toneEnc p.raw cfg t.toNat).toOption.getD []).getD k 0) :
    toneDec p.raw cfg (recSlice r o 2) = .ok t.toNat := by
  rcases toneEnc_cases p.raw cfg t.toNat with ⟨_, b0, b1, henc⟩ | ⟨hno, _⟩
  · rw [henc] at hb
    have hslice : recSlice r o 2 = [b0, b1] := recSlice_eq (b := [b0, b1]) ho hb
    rw [hslice]
    exact toneDec_toneEnc p henc
  · rw [ht] at hno
    cases hno

theorem flagsDec_flagsEnc (cfg : BitVec 5) (power width scan : Bool) :
    flagsDec cfg (flagsEnc cfg power width scan) = .ok (power, width, scan) := by
  unfold flagsDec flagsEnc
  split
  · rw [flagsDecB_flagsEncB]
  · exact flagsDecA_flagsEncA power width scan

/-- The entry without the transmit fields that a receive-only record does not carry (R101, R106). -/
def TblEntry.carried (e : TblEntry) : TblEntry :=
  { e with txf := if e.txv then e.txf else 0, txt := if e.txv then e.txt else 0 }

theorem number_ne_emptyMarker : ∀ i : SlotIx, BitVec.ofNat 8 i.number ≠ emptyMarker := by
  decide

/-- R106: the decode of an encoded record is its entry, whatever its slot. -/
theorem decodeRecord_encodeRecord (p : BlockParams) {cfg : BitVec 5} {e : TblEntry} (i : SlotIx)
    {r : List Byte} (hrx : e.rxv = true) (henc : firstEncodeError p.raw cfg e = none)
    (h100 : cfgFreqSel cfg = true →
      e.rxf.toNat % 100 = 0 ∧ (e.txv = true → e.txf.toNat % 100 = 0))
    (hr : encodeRecord p.raw cfg e i.number = .ok r) :
    decodeRecord p.raw cfg r = .ok e.carried := by
  have hlen := encodeRecord_length hr
  have hbyte : ∀ {k}, k < 32 → recByte r k = recordByte p.raw cfg e i.number k :=
    encodeRecord_getD p hrx henc hr
  obtain ⟨hrxf, hrxt, htx⟩ := encodable_of_firstEncodeError_none hrx henc
  obtain ⟨hdrxf, hfive⟩ := freqDec_recSlice_of_bytes (r := r) (o := 2) (by omega) hrxf
    (fun h => (h100 h).1)
    fun k hk => by rw [hbyte (by omega), recordByte_rxf p cfg e _ hk]
  have hdrxt := toneDec_recSlice_of_bytes (r := r) (o := 12) p (by omega) hrxt
    fun k hk => by rw [hbyte (by omega), recordByte_rxt p cfg e _ hk]
  have hdflags : flagsDec cfg (recByte r 17) = .ok (e.power, e.width, e.scan) := by
    rw [hbyte (by omega), recordByte_flags, flagsDec_flagsEnc]
  have hnumber : recByte r 0 ≠ emptyMarker := by
    rw [hbyte (by omega), recordByte, if_pos rfl]
    exact number_ne_emptyMarker i
  have hne : recordEmpty r = false := by simp [recordEmpty, hnumber, hfive]
  refine decodeRecord_of_decodesTo hne ?_
  cases hv : e.txv with
  | false =>
    have habsent : recordTxAbsent r = true := by
      rw [recordTxAbsent, hbyte (by omega), recordByte_nine_of_receiveOnly p cfg e _ hv]
      rfl
    exact ⟨hrx, by simp [TblEntry.carried, hv, habsent], hdrxf, hdrxt, hdflags,
      fun _ => by simp [TblEntry.carried, hv], fun h => by simp [habsent] at h⟩
  | true =>
    obtain ⟨htxf, htxt⟩ := htx hv
    obtain ⟨hdtxf, hnine⟩ := freqDec_recSlice_of_bytes (r := r) (o := 6) (by omega) htxf
      (fun h => (h100 h).2 hv)
      fun k hk => by rw [hbyte (by omega), recordByte_txf p cfg e _ hv hk]
    have hdtxt := toneDec_recSlice_of_bytes (r := r) (o := 14) p (by omega) htxt
      fun k hk => by rw [hbyte (by omega), recordByte_txt p cfg e _ hv hk]
    have habsent : recordTxAbsent r = false := by simpa [recordTxAbsent] using hnine
    exact ⟨hrx, by simp [TblEntry.carried, hv, habsent], hdrxf, hdrxt, hdflags,
      fun h => by simp [habsent] at h, fun _ => by simp [TblEntry.carried, hv, hdtxf, hdtxt]⟩

/-- Settles O29: RENC stores the entry's record, RDEC finds it there and its decode is the entry. -/
theorem rencThenRdecRestoresEntry : Obligations.RencThenRdecRestoresEntry := by
  rintro s i e rfl hrx henc h100
  obtain ⟨hr, _⟩ := encodeRecord_used i.number hrx henc
  have hdec := decodeRecord_encodeRecord s.params i hrx henc h100 hr
  rw [← readRecord_writeRecord s.mem i _ (encodeRecord_length hr)] at hdec
  refine ⟨_, _, exec_renc_ok hr, exec_rdec_ok hdec, rfl, rfl, ?_, readEntry_writeEntry _ _ _⟩
  simp [State.succeed, TblEntry.carried, hrx]

end Sys2Proof.Machine

/-! SUPPORT. The record-codec commands (R110..R114): the way each one ends is that of its codec, and
what it stores is read back from TBL, IMG and ACTMASK. -/

namespace Sys2Proof.Machine

open Sys2Proof.Config

/-! ## AMASK -/

theorem exec_amask (s : State) : exec .amask s = .next
    (State.succeed { s with actMask := activeMask s.mem } ((activeMask s.mem).setWidth 32)) := rfl

/-- Settles O21: the mask is the model's active mask, read bit by bit. -/
theorem amaskResult : Obligations.AmaskResult := fun s =>
  ⟨activeMask s.mem, exec_amask s, activeMask_getLsbD s.mem⟩

/-! ## RENC -/

theorem encodeRecord_unused {p : Params} {cfg : BitVec 5} {e : TblEntry} (n : Nat)
    (h : e.rxv = false) : encodeRecord p cfg e n = .ok (emptyRecord p cfg) := by
  simp [encodeRecord, h]

/-- Settles O22: an entry with RXV = 0 encodes to the empty record, which reads back from IMG with
its checksum. -/
theorem rencEmptySlotWritesSentinel : Obligations.RencEmptySlotWritesSentinel := by
  intro s i hrx
  have hrec : encodeRecord s.par s.cfg (readEntry s.mem i) i.number =
      .ok (emptyRecord s.par s.cfg) :=
    encodeRecord_unused i.number hrx
  have hlen := encodeRecord_length hrec
  refine ⟨writeRecord s.mem i _, ?_, fun k hk => ?_, writeRecord_outside s.mem i _ hlen⟩
  · rw [exec_renc_ok hrec, ← checksum_readRecord, readRecord_writeRecord _ _ _ hlen]
  · rw [writeRecord_read _ _ _ hlen k hk]
    exact emptyRecord_getD s.params s.cfg k hk

theorem encodeRecord_error {p : Params} {cfg : BitVec 5} {e : TblEntry} {fld : RecField} (n : Nat)
    (h : firstEncodeError p cfg e = some fld) :
    encodeRecord p cfg e n = .error (.encodingError, fld) := by
  rcases encodeRecord_cases p cfg e n with ⟨hnone, _⟩ | ⟨fld', hfld, herr⟩
  · rw [h] at hnone
    cases hnone
  · rw [h] at hfld
    cases hfld
    exact herr

theorem exec_renc_error {s : State} {i : SlotIx} {kf : ErrorKind × RecField}
    (h : encodeRecord s.par s.cfg (readEntry s.mem i) i.number = .error kf) :
    exec (.renc i) s = .next (s.endWithError (recordFailure .encode i kf)) := by
  rw [exec, execRenc, h]

/-- Settles O24: the record's encode raises the field's error, which RENC reports with its slot. -/
theorem rencRaisesFirstFailingField : Obligations.RencRaisesFirstFailingField := by
  intro s i fld h
  exact exec_renc_error (encodeRecord_error i.number h)

/-! ## RDEC -/

/-- Settles O26: the entry that the record decodes to holds its fields, and reads back from TBL. -/
theorem rdecUsedRecordFillsEntry : Obligations.RdecUsedRecordFillsEntry := by
  rintro s i r rfl hne hnone
  rcases decodeRecord_cases s.par s.cfg (readRecord s.mem i) with ⟨_, e, hdec⟩ | ⟨fld, hfld, _⟩
  · obtain ⟨hrxv, htxv, hrxf, hrxt, hflags, habsent, hpresent⟩ := decodesTo_of_decodeRecord hne hdec
    refine ⟨writeEntry s.mem i e, ?_, ?_⟩
    · rw [exec_rdec_ok hdec, hrxv]
      rfl
    · rw [readEntry_writeEntry]
      exact ⟨hrxv, htxv, hrxf, hrxt, hflags, fun h => habsent (beq_iff_eq.2 h),
        fun h => hpresent (beq_false_of_ne h), writeEntry_outside s.mem i e⟩
  · rw [hnone] at hfld
    cases hfld

theorem decodeRecord_error {p : Params} {cfg : BitVec 5} {r : List Byte} {fld : RecField}
    (h : firstDecodeError p cfg r = some fld) :
    decodeRecord p cfg r = .error (.decodeError, fld) := by
  rcases decodeRecord_cases p cfg r with ⟨hnone, _⟩ | ⟨fld', hfld, herr⟩
  · rw [h] at hnone
    cases hnone
  · rw [h] at hfld
    cases hfld
    exact herr

theorem exec_rdec_error {s : State} {i : SlotIx} {kf : ErrorKind × RecField}
    (h : decodeRecord s.par s.cfg (readRecord s.mem i) = .error kf) :
    exec (.rdec i) s = .next (s.endWithError (recordFailure .decode i kf)) := by
  rw [exec, execRdec, h]

/-- Settles O27: the record's decode raises the field's error, which RDEC reports with its slot. -/
theorem rdecRaisesFirstFailingField : Obligations.RdecRaisesFirstFailingField := by
  intro s i fld h
  exact exec_rdec_error (decodeRecord_error h)

/-! ## IENC and IDEC -/

theorem exec_ienc_ok {s : State} {rs : List (List Byte)}
    (h : encodeTable s.par s.cfg s.mem = .ok rs) : exec .ienc s = .next
      (State.succeed { s with mem := writeImage s.mem rs, actMask := activeMask s.mem }
        ((activeMask s.mem).setWidth 32)) := by
  rw [exec, execIenc, h]
  rfl

theorem exec_ienc_error {s : State} {i : SlotIx} {kf : ErrorKind × RecField}
    (h : encodeTable s.par s.cfg s.mem = .error (i, kf)) :
    exec .ienc s = .next (s.endWithError (recordFailure .encode i kf)) := by
  rw [exec, execIenc, h]

theorem exec_idec_ok {s : State} {es : List TblEntry}
    (h : decodeImage s.par s.cfg s.mem = .ok es) : exec .idec s = .next
      (State.succeed { s with mem := writeTable s.mem es }
        (BitVec.ofNat 32 (es.countP TblEntry.rxv))) := by
  rw [exec, execIdec, h]

theorem exec_idec_error {s : State} {i : SlotIx} {kf : ErrorKind × RecField}
    (h : decodeImage s.par s.cfg s.mem = .error (i, kf)) :
    exec .idec s = .next (s.endWithError (recordFailure .decode i kf)) := by
  rw [exec, execIdec, h]

/-- Settles O30: each record of the image written is its entry's, and ACTMASK is the active mask. -/
theorem iencEncodesWholeTable : Obligations.IencEncodesWholeTable := by
  intro s hall
  rcases encodeTable_cases s.par s.cfg s.mem with
    ⟨_, rs, henc, hcount, hlen, hget⟩ | ⟨i, fld, _, hfld, _⟩
  · refine ⟨writeImage s.mem rs, activeMask s.mem, exec_ienc_ok henc, fun i => ?_,
      fun a ha => writeImage_outside s.mem rs hcount hlen a (.inl ha), activeMask_getLsbD s.mem⟩
    rw [readRecord_writeImage s.mem rs hcount hlen i]
    exact hget i
  · rw [hall i] at hfld
    cases hfld

/-- The slots of the table that hold the entries of a sixteen-entry list, in order. -/
theorem map_readEntry_writeTable (m : Memory) {es : List TblEntry} (hn : es.length = 16) :
    allSlots.map (readEntry (writeTable m es)) = es := by
  have hslots : allSlots = List.finRange 16 := by decide
  rw [hslots]
  apply List.ext_getElem (by simp [hn])
  intro k hk hk'
  simp [readEntry_writeTable m es hn, hk']

/-- Settles O31: each entry of the table written is its record's, and RES counts those in use. -/
theorem idecDecodesWholeImage : Obligations.IdecDecodesWholeImage := by
  intro s hall
  rcases decodeImage_cases s.par s.cfg s.mem with
    ⟨_, es, hdec, hcount, hget⟩ | ⟨i, fld, _, hfld, _⟩
  · refine ⟨writeTable s.mem es, ?_, fun i => ?_,
      fun a ha => writeTable_outside s.mem es hcount a (.inr ha)⟩
    · have hres : es.countP TblEntry.rxv =
          allSlots.countP fun i => (readEntry (writeTable s.mem es) i).rxv := by
        conv_lhs => rw [← map_readEntry_writeTable s.mem hcount, List.countP_map]
        rfl
      rw [exec_idec_ok hdec, hres]
    · rw [readEntry_writeTable s.mem es hcount i]
      exact hget i
  · rw [hall i] at hfld
    cases hfld

/-- The lowest slot with a property is one only. -/
theorem lowest_unique {f : SlotIx → Option RecField} {i j : SlotIx} {a b : RecField}
    (hi : ∀ k, k < i → f k = none) (hj : ∀ k, k < j → f k = none) (hia : f i = some a)
    (hjb : f j = some b) : i = j ∧ a = b := by
  have hij : i = j := by
    rcases lt_trichotomy i j with h | h | h
    · simp [hj i h] at hia
    · exact h
    · simp [hi j h] at hjb
  subst hij
  exact ⟨rfl, Option.some.inj (hia.symm.trans hjb)⟩

theorem encodeTable_error {p : Params} {cfg : BitVec 5} {m : Memory} {i : SlotIx} {fld : RecField}
    (hlow : ∀ j, j < i → firstEncodeError p cfg (readEntry m j) = none)
    (h : firstEncodeError p cfg (readEntry m i) = some fld) :
    encodeTable p cfg m = .error (i, .encodingError, fld) := by
  rcases encodeTable_cases p cfg m with ⟨hall, _⟩ | ⟨j, fld', hlow', h', herr⟩
  · simp [hall i] at h
  · obtain ⟨rfl, rfl⟩ := lowest_unique hlow hlow' h h'
    exact herr

theorem decodeImage_error {p : Params} {cfg : BitVec 5} {m : Memory} {i : SlotIx} {fld : RecField}
    (hlow : ∀ j, j < i → firstDecodeError p cfg (readRecord m j) = none)
    (h : firstDecodeError p cfg (readRecord m i) = some fld) :
    decodeImage p cfg m = .error (i, .decodeError, fld) := by
  rcases decodeImage_cases p cfg m with ⟨hall, _⟩ | ⟨j, fld', hlow', h', herr⟩
  · simp [hall i] at h
  · obtain ⟨rfl, rfl⟩ := lowest_unique hlow hlow' h h'
    exact herr

/-- Settles O32: the loop over the slots stops at the lowest one that fails. -/
theorem imageCodecErrorWritesNothing : Obligations.ImageCodecErrorWritesNothing := by
  intro s i fld
  exact ⟨fun hlow h => exec_ienc_error (encodeTable_error hlow h),
    fun hlow h => exec_idec_error (decodeImage_error hlow h)⟩

/-! ## What the CODEC commands store -/

/-- The commands on single fields and CSUM (40_field_codecs.md section 2). -/
def isFieldCodec : Instr → Bool
  | .fenc | .fdec | .stepf | .tenc | .tdec | .genc | .gdec | .csum _ => true
  | _ => false

/-- A field-codec command writes RES or ends in an error, and stores nothing (R88..R95). -/
theorem exec_fieldCodec_cases {i : Instr} {s t : State} (hi : isFieldCodec i = true)
    (h : exec i s = .next t) : (∃ v, t = s.succeed v) ∨ ∃ f, t = s.endWithError f := by
  cases i <;> obtain rfl := Host.Outcome.next.inj h
  case fenc | fdec | stepf | tenc | tdec | gdec => exact finishField_cases s _ _
  case genc | csum => exact .inl ⟨_, rfl⟩
  all_goals cases hi

theorem exec_fieldCodec_stores_nothing {i : Instr} {s t : State} (hi : isFieldCodec i = true)
    (h : exec i s = .next t) : t.mem = s.mem ∧ t.actMask = s.actMask := by
  rcases exec_fieldCodec_cases hi h with ⟨v, rfl⟩ | ⟨f, rfl⟩ <;> exact ⟨rfl, rfl⟩

theorem exec_amask_mem {s t : State} (h : exec .amask s = .next t) : t.mem = s.mem := by
  obtain rfl := Host.Outcome.next.inj h
  rfl

theorem exec_renc_outside {i : SlotIx} {s t : State} (h : exec (.renc i) s = .next t) {a : Nat}
    (ha : a < imgAddr i ∨ imgAddr i + 32 ≤ a) : t.mem.read a = s.mem.read a := by
  rcases encodeRecord_cases s.par s.cfg (readEntry s.mem i) i.number with
    ⟨_, r, hr⟩ | ⟨fld, _, hr⟩
  · rw [exec_renc_ok hr] at h
    obtain rfl := Host.Outcome.next.inj h
    rw [imgAddr_eq] at ha
    exact writeRecord_outside s.mem i r (encodeRecord_length hr) a ha
  · rw [exec_renc_error hr] at h
    obtain rfl := Host.Outcome.next.inj h
    rfl

theorem exec_rdec_outside {i : SlotIx} {s t : State} (h : exec (.rdec i) s = .next t) {a : Nat}
    (ha : a < tblAddr i ∨ tblAddr i + 16 ≤ a) : t.mem.read a = s.mem.read a := by
  rcases decodeRecord_cases s.par s.cfg (readRecord s.mem i) with ⟨_, e, he⟩ | ⟨fld, _, he⟩
  · rw [exec_rdec_ok he] at h
    obtain rfl := Host.Outcome.next.inj h
    exact writeEntry_outside s.mem i e a ha
  · rw [exec_rdec_error he] at h
    obtain rfl := Host.Outcome.next.inj h
    rfl

theorem exec_ienc_below {s t : State} (h : exec .ienc s = .next t) {a : Nat} (ha : a < 0x200) :
    t.mem.read a = s.mem.read a := by
  rcases encodeTable_cases s.par s.cfg s.mem with ⟨_, rs, hrs, hcount, hlen, _⟩ |
    ⟨i, fld, _, _, hrs⟩
  · rw [exec_ienc_ok hrs] at h
    obtain rfl := Host.Outcome.next.inj h
    exact writeImage_outside s.mem rs hcount hlen a (.inl ha)
  · rw [exec_ienc_error hrs] at h
    obtain rfl := Host.Outcome.next.inj h
    rfl

theorem exec_idec_above {s t : State} (h : exec .idec s = .next t) {a : Nat} (ha : 0x200 ≤ a) :
    t.mem.read a = s.mem.read a := by
  rcases decodeImage_cases s.par s.cfg s.mem with ⟨_, es, hes, hcount, _⟩ |
    ⟨i, fld, _, _, hes⟩
  · rw [exec_idec_ok hes] at h
    obtain rfl := Host.Outcome.next.inj h
    exact writeTable_outside s.mem es hcount a (.inr ha)
  · rw [exec_idec_error hes] at h
    obtain rfl := Host.Outcome.next.inj h
    rfl

theorem exec_codec_actMask {i : Instr} {s t : State} (hi : isCodec i = true) (hamask : i ≠ .amask)
    (hienc : i ≠ .ienc) (h : exec i s = .next t) : t.actMask = s.actMask := by
  by_cases hf : isFieldCodec i = true
  · exact (exec_fieldCodec_stores_nothing hf h).2
  cases i <;> obtain rfl := Host.Outcome.next.inj h
  case renc | rdec | idec => split <;> rfl
  case amask => exact absurd rfl hamask
  case ienc => exact absurd rfl hienc
  case rdall | wrall => cases hi
  all_goals exact absurd rfl hf

/-- An error of a CODEC command stores nothing (R162). -/
theorem exec_codec_error_stores_nothing {i : Instr} {s t : State} (hi : isCodec i = true)
    (h : exec i s = .next t) (herr : t.status.err = true) :
    t.res = s.res ∧ t.actMask = s.actMask ∧ ∀ a, t.mem.read a = s.mem.read a := by
  rcases exec_codec_cases hi h with ⟨m, k, v, rfl⟩ | ⟨f, rfl⟩
  · simp at herr
  · exact ⟨rfl, rfl, fun _ => rfl⟩

/-- Settles O34: each command's store is its codec's, and outside it the bytes stay. -/
theorem codecCommandStores : Obligations.CodecCommandStores := by
  have hlist : ∀ i ∈ [Instr.fenc, .fdec, .stepf, .tenc, .tdec, .genc, .gdec, .amask],
      isFieldCodec i = true ∨ i = .amask := by decide
  have hfield : ∀ {i s t}, isFieldCodec i = true → exec i s = .next t →
      ∀ a, t.mem.read a = s.mem.read a := fun hi h _ => by
    rw [(exec_fieldCodec_stores_nothing hi h).1]
  intro s t
  refine ⟨fun i hi h a => ?_,
    fun j h => hfield rfl h,
    fun j h a ha => exec_renc_outside h ha,
    fun j h a ha => exec_rdec_outside h ha,
    fun h a ha => exec_ienc_below h ha,
    fun h a ha => exec_idec_above h ha,
    fun i hi hamask hienc h => exec_codec_actMask hi hamask hienc h,
    fun i hi h herr => exec_codec_error_stores_nothing hi h herr⟩
  rcases hlist i hi with hi | rfl
  · exact hfield hi h a
  · rw [exec_amask_mem h]

end Sys2Proof.Machine

/-! SUPPORT. The pending answers of DEV as SEQ's reads take them (R118, R136): what an RX leaves,
and how a read that fails ends, whatever came after it (R119, R121, R148). -/

namespace Sys2Proof.Machine

open Sys2Proof.Config

/-! ## Pending answers -/

theorem rxAnswer_one {s : State} {a : DevAnswer} {q : List DevAnswer} (h : s.devQueue = a :: q) :
    s.rxAnswer 1 = (oneByte a).map fun b => [b] := by
  cases a with
  | absent => exact rxAnswer_absent s q 1 h
  | present d => exact rxAnswer_present s d q 1 h

/-- An RX uses up the pending answer and is recorded with it (R135, R136). -/
theorem afterRx_cons {s : State} {a : DevAnswer} {q : List DevAnswer} (h : s.devQueue = a :: q)
    (n : Nat) :
    s.afterRx n = { s with devQueue := q, trace := s.trace ++ [.rx n (s.rxAnswer n)] } := by
  rw [State.afterRx, answered_cons s a q h]
  rfl

theorem afterRx_one {s : State} {a : DevAnswer} {q : List DevAnswer} (h : s.devQueue = a :: q) :
    s.afterRx 1 =
      { s with devQueue := q, trace := s.trace ++ [.rx 1 ((oneByte a).map fun b => [b])] } := by
  rw [afterRx_cons h, rxAnswer_one h]

/-! ## Reads that fail -/

/-- The error of a confirmation check that the answer `a` fails (R118). -/
def checkError (key : Byte) (ph : ErrPhase) (slot : Nat) (a : DevAnswer) : Failure :=
  { kind := if oneByte a = none then .timeout else .confirmationMismatch,
    info := { exp := conf, act := ((oneByte a).map (· ^^^ key)).getD 0,
              slot := BitVec.ofNat 5 slot, field := .none, phase := ph } }

/-- CHECK finds nothing in the confirmation, and in nothing else (R118). -/
theorem checkFailure_oneByte_none_iff (key : Byte) (ph : ErrPhase) (slot : Nat) (a : DevAnswer) :
    checkFailure key ph slot ((oneByte a).map fun b => [b]) = none ↔
      (oneByte a).map (· ^^^ key) = some conf := by
  cases h : oneByte a <;> simp [checkFailure, recByte]

/-- `checkError` is what CHECK finds in an answer that is not the confirmation (R118). -/
theorem checkFailure_of_ne {key : Byte} {a : DevAnswer}
    (ha : (oneByte a).map (· ^^^ key) ≠ some conf) (ph : ErrPhase) (slot : Nat) :
    checkFailure key ph slot ((oneByte a).map fun b => [b]) =
      some (checkError key ph slot a) := by
  cases hb : oneByte a with
  | none => simp [checkFailure, checkError, timeoutFailure, hb]
  | some b =>
    have hne : b ^^^ key ≠ conf := by simpa [hb] using ha
    simp [checkFailure, checkError, mismatchFailure, recByte, hb, hne]

/-- A check that DEV answers wrongly or not at all takes the failure path (R118, R119). -/
theorem check_fail {s : State} {a : DevAnswer} {q : List DevAnswer} {key : Byte}
    (h : s.devQueue = a :: q) (ha : (oneByte a).map (· ^^^ key) ≠ some conf) (ph : ErrPhase)
    (slot : Nat) (pass : State → State) :
    s.check key ph slot pass = (s.afterRx 1).fail (checkError key ph slot a) := by
  rw [State.check, rxAnswer_one h, checkFailure_of_ne ha]

/-- An unchecked RX that times out takes the failure path (R128, R130, R139). -/
theorem receive_timeout {s : State} {q : List DevAnswer} (h : s.devQueue = .absent :: q) (n : Nat)
    (ph : ErrPhase) (slot : Nat) (pass : List Byte → State → State) :
    s.receive n ph slot pass = (s.afterRx n).fail (timeoutFailure ph slot 0) := by
  rw [State.receive, rxAnswer_absent s q n h]

/-- The phases with a confirmation check perform that check. -/
theorem seqPhase_of_checkOf {s : State} {p : SeqPhase} {key : Byte} {ph : ErrPhase} {slot : Nat}
    (h : checkOf s p = some (key, ph, slot)) :
    ∃ pass, s.seqPhase p = s.check key ph slot pass := by
  cases p
  case echo0 | conf1Echo | conf2Echo | readCheck =>
    cases h
    simp only [State.seqPhase]
    exact ⟨_, rfl⟩
  case writeCheck g =>
    simp only [State.seqPhase]
    cases g <;> cases h <;> exact ⟨_, rfl⟩
  all_goals cases h

/-- The phases with an unchecked read perform that read. -/
theorem seqPhase_of_readOf {s : State} {p : SeqPhase} {n : Nat} {ph : ErrPhase} {slot : Nat}
    (h : readOf s p = some (n, ph, slot)) :
    ∃ pass, s.seqPhase p = s.receive n ph slot pass := by
  cases p
  case ident | resp | readData =>
    cases h
    simp only [State.seqPhase]
    exact ⟨_, rfl⟩
  all_goals cases h

/-- Settles O43: the step is the phase's check or read, and the answer takes it to the failure
path. -/
theorem failedReadFailsSession : Obligations.FailedReadFailsSession := by
  constructor
  · intro s key ph slot a q hq hb hcheck hdev hne
    obtain ⟨pass, hpass⟩ := seqPhase_of_checkOf hcheck
    rw [step_session hq hb, hpass, check_fail hdev hne, afterRx_one hdev]
    rfl
  · intro s n ph slot q hq hb hread hdev
    obtain ⟨pass, hpass⟩ := seqPhase_of_readOf hread
    rw [step_session hq hb, hpass, receive_timeout hdev, afterRx_cons hdev,
      rxAnswer_absent s q n hdev]
    rfl

/-- Settles O39: the answer makes the step the unopened session's end. -/
theorem openUnavailableEndsSession : Obligations.OpenUnavailableEndsSession := by
  intro s q ⟨hq, hb, hp, _⟩ hdev
  rw [step_session hq hb, hp, State.seqPhase]
  rcases stepOpen_cases s with ⟨ha, _⟩ | ⟨_, h⟩
  · simp [State.openAnswer, State.devAnswer, hdev] at ha
  · rw [h, answered_cons s _ q hdev]
    rfl

end Sys2Proof.Machine

/-! SUPPORT. The handshake against a device that answers every check rightly (R121..R132): its
pieces, each with the whole state that it leaves, put together in order. -/

namespace Sys2Proof.Machine

open Sys2Proof.Config

/-! ## A run step by step -/

/-- A run whose first step is known goes on from the state after it. -/
theorem steps_next {s t : State} {k : Nat} {r : Host.Outcome State Fault Refusal}
    (hstep : step s = .next t) (h : steps k t = r) : steps (k + 1) s = r :=
  (steps_succ k hstep).trans h

/-- A run whose first steps are known goes on from the state after them. -/
theorem steps_append {s t : State} {j k : Nat} {r : Host.Outcome State Fault Refusal}
    (hsteps : steps j s = .next t) (h : steps k t = r) : steps (j + k) s = r :=
  (steps_add j k hsteps).trans h

/-! ## Sending in any SSTATE -/

/-- The rest `b :: bs` of a frame goes out one byte a step.  Unlike `steps_sendRest` it asks nothing
of SSTATE, which a state at OPEN leaves open. -/
theorem steps_sendSuffix {p : SeqPhase} (hp : ∀ t : State, t.seqPhase p = t.sendFrame p)
    (bs : List Byte) : ∀ (pre : List Byte) (b : Byte) (s : State), s.hostQueue = [] →
      s.status.busy = true → s.seq.phase = p → s.frame p = pre ++ b :: bs →
      s.seq.sent = pre.length →
      steps (bs.length + 1) s = .next
        { s with
          trace := s.trace ++ (b :: bs).map Event.tx
          seq := { s.seq with phase := s.afterFrame p, sent := 0 } } := by
  induction bs with
  | nil =>
    intro pre b s hq hb hph hf hsent
    have hbyte : (s.frame p)[s.seq.sent]? = some b := by simp [hf, hsent]
    have hlen : ¬ s.seq.sent + 1 < (s.frame p).length := by simp [hf, hsent]
    have hstep := step_session hq hb
    rw [hph, hp, State.sendFrame, hbyte] at hstep
    simp only [if_neg hlen] at hstep
    exact steps_succ 0 hstep
  | cons c bs ih =>
    intro pre b s hq hb hph hf hsent
    have hbyte : (s.frame p)[s.seq.sent]? = some b := by simp [hf, hsent]
    have hlen : s.seq.sent + 1 < (s.frame p).length := by simp [hf, hsent]
    have hstep := step_session hq hb
    rw [hph, hp, State.sendFrame, hbyte] at hstep
    simp only [if_pos hlen] at hstep
    refine steps_next hstep (Eq.trans (ih (pre ++ [b]) c _ hq hb hph ?_ (by simp [hsent])) ?_)
    · exact (frame_congr (s := s) rfl rfl rfl rfl rfl p).trans (by simp [hf])
    · simp only [emit_trace, List.append_assoc]
      rw [afterFrame_congr (s := s) rfl p]
      rfl

/-- A whole frame goes out in as many steps as it has bytes. -/
theorem steps_sendPhase {s : State} {p : SeqPhase} {n : Nat} (hs : atPhase s p)
    (hp : ∀ t : State, t.seqPhase p = t.sendFrame p) (hn : (s.frame p).length = n + 1) :
    steps (n + 1) s = .next
      { s with
        trace := s.trace ++ (s.frame p).map Event.tx
        seq := { s.seq with phase := s.afterFrame p, sent := 0 } } := by
  obtain ⟨hq, hb, hph, h0⟩ := hs
  obtain ⟨b, bs, hf⟩ := List.exists_cons_of_length_eq_add_one hn
  obtain rfl : bs.length = n := by simpa [hf] using hn
  rw [hf]
  exact steps_sendSuffix hp bs [] b s hq hb hph hf h0

/-- A frame of one byte goes out in one step. -/
theorem step_sendByte {s : State} {p : SeqPhase} {b : Byte} (hs : atPhase s p)
    (hp : ∀ t : State, t.seqPhase p = t.sendFrame p) (hf : s.frame p = [b]) :
    step s = .next
      { s with
        trace := s.trace ++ [.tx b]
        seq := { s.seq with phase := s.afterFrame p, sent := 0 } } := by
  obtain ⟨hq, hb, hph, h0⟩ := hs
  have hbyte : (s.frame p)[s.seq.sent]? = some b := by simp [hf, h0]
  rw [step_session hq hb, hph, hp, State.sendFrame, hbyte]
  simp only [hf, List.length_singleton, h0]
  rfl

/-! ## Reading right answers -/

/-- DEV's answer of the one byte `b ^ key`, decrypted, is `b` (R116). -/
theorem getD_xor_self (b key : Byte) : [b ^^^ key].getD 0 0 ^^^ key = b := by
  simp

/-- OPEN answered with OK (R121). -/
theorem step_openLink_ok {s : State} {d : List Byte} {q : List DevAnswer} (hs : atPhase s .openLink)
    (hd : s.devQueue = .present d :: q) :
    step s = .next
      { s with
        devQueue := q
        trace := s.trace ++ [.openLink true]
        status := { s.status with link := true, baudHi := false }
        seq := { s.seq with phase := .progReq, sent := 0 } } := by
  obtain ⟨hq, hb, hp, _⟩ := hs
  rw [step_session hq hb, hp, State.seqPhase]
  rcases stepOpen_cases s with ⟨_, h⟩ | ⟨ha, _⟩
  · rw [h, answered_cons s _ q hd]
    rfl
  · simp [State.openAnswer, State.devAnswer, hd] at ha

/-- LISTEN answered with LISTEN_CODE (R123). -/
theorem step_listen_ok {s : State} {q : List DevAnswer} (hs : atPhase s .listen)
    (hd : s.devQueue = .present [s.par.listenCode] :: q) :
    step s = .next
      { s with
        devQueue := q
        trace := s.trace ++ [.rx 1 (some [s.par.listenCode])]
        status := { s.status with sstate := .listening }
        seq := { s.seq with phase := .baud, sent := 0 } } := by
  obtain ⟨hq, hb, hp, _⟩ := hs
  have ha : s.rxAnswer 1 = some [s.par.listenCode] := rxAnswer_one hd
  have hcode : recByte [s.par.listenCode] 0 = s.par.listenCode := rfl
  rw [step_session hq hb, hp, State.seqPhase, State.stepListen, ha, afterRx_one hd]
  simp only [if_pos hcode]
  rfl

/-- BAUD (R125). -/
theorem step_baud {s : State} (hs : atPhase s .baud) :
    step s = .next
      { s with
        trace := s.trace ++ [.baud s.par.baudHigh]
        status := { s.status with baudHi := true }
        seq := { s.seq with phase := .echo0, sent := 0 } } := by
  obtain ⟨hq, hb, hp, _⟩ := hs
  rw [step_session hq hb, hp]
  rfl

/-- A check answered with CONF under its key (R118). -/
theorem step_check_ok {s : State} {p : SeqPhase} {key : Byte} {ph : ErrPhase} {slot : Nat}
    {pass : State → State} {q : List DevAnswer} (hs : atPhase s p)
    (hp : s.seqPhase p = s.check key ph slot pass)
    (hd : s.devQueue = .present [conf ^^^ key] :: q) :
    step s = .next
      (pass { s with devQueue := q, trace := s.trace ++ [.rx 1 (some [conf ^^^ key])] }) := by
  obtain ⟨hq, hb, hph, _⟩ := hs
  rw [step_session hq hb, hph, hp, check_pass hd (getD_xor_self conf key)]
  rfl

/-- An unchecked read answered with bytes (R128, R130). -/
theorem step_receive_ok {s : State} {p : SeqPhase} {n : Nat} {ph : ErrPhase} {slot : Nat}
    {pass : List Byte → State → State} {d : List Byte} {q : List DevAnswer} (hs : atPhase s p)
    (hp : s.seqPhase p = s.receive n ph slot pass) (hd : s.devQueue = .present d :: q) :
    step s = .next
      (pass (answerBytes d n)
        { s with devQueue := q, trace := s.trace ++ [.rx n (some (answerBytes d n))] }) := by
  obtain ⟨hq, hb, hph, _⟩ := hs
  rw [step_session hq hb, hph, hp, receive_pass hd]

/-! ## The phases that read -/

theorem seqPhase_echo0 (s : State) :
    s.seqPhase .echo0 = s.check s.k1s .hsConf1 0 (·.goto .verReq) := rfl

theorem seqPhase_ident (s : State) :
    s.seqPhase .ident = s.receive 40 .hsIdent 0 fun _ t => t.goto .keySend := rfl

theorem seqPhase_conf1Echo (s : State) :
    s.seqPhase .conf1Echo = s.check s.k1s .hsConf2 0 (·.goto .mark) := rfl

theorem seqPhase_resp (s : State) :
    s.seqPhase .resp = s.receive s.par.respLen .hsResp 0 fun _ t => t.goto .conf2 := rfl

theorem seqPhase_conf2Echo (s : State) :
    s.seqPhase .conf2Echo = s.check s.par.k2 .hsConf3 0 fun t =>
      (t.setSession .keyExchanged).firstTransaction := rfl

/-! ## The pieces of the handshake -/

/-- OPEN and PROG_REQ (R121, R122). -/
theorem steps_open_progReq {s : State} {d : List Byte} {q : List DevAnswer}
    (hs : atPhase s .openLink) (hd : s.devQueue = .present d :: q) :
    steps 8 s = .next
      { s with
        devQueue := q
        trace := s.trace ++ ([.openLink true] ++ s.par.progReq.map Event.tx)
        status := { s.status with link := true, baudHi := false }
        seq := { s.seq with phase := .listen, sent := 0 } } := by
  obtain ⟨hlen, _⟩ := wire_spec s.params
  have ⟨hq, hb, _, _⟩ := hs
  refine steps_next (step_openLink_ok hs hd) ?_
  refine Eq.trans (steps_sendPhase (p := .progReq) ⟨hq, hb, rfl, rfl⟩ (fun _ => rfl) hlen) ?_
  rw [List.append_assoc]
  rfl

/-- LISTEN, BAUD and the first check under K1S (R123, R125, R126). -/
theorem steps_listen_baud_echo {s : State} {q : List DevAnswer} (hs : atPhase s .listen)
    (hd : s.devQueue = .present [s.par.listenCode] :: .present [conf ^^^ s.k1s] :: q) :
    steps 3 s = .next
      { s with
        devQueue := q
        trace := s.trace ++ [.rx 1 (some [s.par.listenCode]), .baud s.par.baudHigh,
          .rx 1 (some [conf ^^^ s.k1s])]
        status := { s.status with sstate := .listening, baudHi := true }
        seq := { s.seq with phase := .verReq, sent := 0 } } := by
  have ⟨hq, hb, _, _⟩ := hs
  refine steps_next (step_listen_ok hs hd) ?_
  refine steps_next (step_baud ⟨hq, hb, rfl, rfl⟩) ?_
  refine steps_next (step_check_ok ⟨hq, hb, rfl, rfl⟩ (seqPhase_echo0 _) rfl) ?_
  rw [steps_zero, List.append_assoc, List.append_assoc]
  rfl

/-- VER_REQ, the identity block, K1S in clear and CONF under it, and the check under K1S (R127,
R128, R129). -/
theorem steps_verReq_ident_key {s : State} {dI : List Byte} {q : List DevAnswer}
    (hs : atPhase s .verReq) (hd : s.devQueue = .present dI :: .present [conf ^^^ s.k1s] :: q) :
    steps 5 s = .next
      { s with
        devQueue := q
        trace := s.trace ++ [.tx s.par.verReq, .rx 40 (some (answerBytes dI 40)), .tx s.k1s,
          .tx (conf ^^^ s.k1s), .rx 1 (some [conf ^^^ s.k1s])]
        seq := { s.seq with phase := .mark, sent := 0 } } := by
  have ⟨hq, hb, _, _⟩ := hs
  refine steps_next (step_sendByte hs (fun _ => rfl) rfl) ?_
  refine steps_next (step_receive_ok ⟨hq, hb, rfl, rfl⟩ (seqPhase_ident _) hd) ?_
  refine steps_next (step_sendByte (p := .keySend) ⟨hq, hb, rfl, rfl⟩ (fun _ => rfl) rfl) ?_
  refine steps_next (step_sendByte (p := .conf1) ⟨hq, hb, rfl, rfl⟩ (fun _ => rfl) rfl) ?_
  refine steps_next (step_check_ok ⟨hq, hb, rfl, rfl⟩ (seqPhase_conf1Echo _) rfl) ?_
  rw [steps_zero]
  simp only [goto_trace, List.append_assoc]
  rfl

/-- MARK under K2, and the marker response where there is one (R130). -/
theorem steps_mark_resp {s : State} {dR : List Byte} {q : List DevAnswer} {n : Nat}
    (hs : atPhase s .mark) (hn : n = if s.par.respLen = 0 then 1 else 2)
    (hd : s.devQueue = (if s.par.respLen = 0 then [] else [.present dR]) ++ q) :
    steps n s = .next
      { s with
        devQueue := q
        trace := s.trace ++ (.tx (s.par.marker ^^^ s.par.k2) ::
          if s.par.respLen = 0 then []
          else [.rx s.par.respLen (some (answerBytes dR s.par.respLen))])
        seq := { s.seq with phase := .conf2, sent := 0 } } := by
  have ⟨hq, hb, _, _⟩ := hs
  have hmark := step_sendByte hs (fun _ => rfl) rfl
  simp only [State.afterFrame, State.afterMark] at hmark
  subst hn
  by_cases hr : s.par.respLen = 0
  · simp only [hr, if_true, List.nil_append] at hd hmark ⊢
    refine steps_next hmark ?_
    rw [steps_zero, ← hd]
  · simp only [hr, if_false, List.cons_append, List.nil_append] at hd hmark ⊢
    refine steps_next hmark ?_
    refine steps_next (step_receive_ok ⟨hq, hb, rfl, rfl⟩ (seqPhase_resp _) hd) ?_
    rw [steps_zero, List.append_assoc]
    rfl

/-- CONF under K2 and the last check, after which the command's first transaction begins (R131,
R153, R154). -/
theorem steps_conf2 {s : State} {q : List DevAnswer} (hs : atPhase s .conf2)
    (hd : s.devQueue = .present [conf ^^^ s.par.k2] :: q) :
    steps 2 s = .next
      { s with
        devQueue := q
        trace := s.trace ++ [.tx (conf ^^^ s.par.k2), .rx 1 (some [conf ^^^ s.par.k2])]
        status := { s.status with sstate := .keyExchanged }
        seq :=
          if s.seq.op = some 0x20 then { s.seq with phase := .readDesc, sent := 0, slot := 1 }
          else { s.seq with phase := .writeDesc .scanKey, sent := 0 } } := by
  have ⟨hq, hb, _, _⟩ := hs
  refine steps_next (step_sendByte hs (fun _ => rfl) rfl) ?_
  refine steps_next (step_check_ok ⟨hq, hb, rfl, rfl⟩ (seqPhase_conf2Echo _) hd) ?_
  rw [steps_zero, List.append_assoc]
  by_cases hop : s.seq.op = some 0x20
  · simp only [if_pos hop]
    exact congrArg Host.Outcome.next (if_pos hop)
  · simp only [if_neg hop]
    exact congrArg Host.Outcome.next (if_neg hop)

/-! ## The handshake -/

theorem handshakeSteps_eq (p : Params) :
    handshakeSteps p = 8 + (3 + (5 + ((if p.respLen = 0 then 1 else 2) + 2))) := by
  unfold handshakeSteps
  split <;> rfl

theorem handshakeAnswers_eq (p : Params) (k1 : Byte) (dI dR : List Byte) (q : List DevAnswer) :
    handshakeAnswers p k1 dI dR ++ q =
      .present [] :: .present [p.listenCode] :: .present [conf ^^^ k1] :: .present dI ::
        .present [conf ^^^ k1] :: ((if p.respLen = 0 then [] else [.present dR]) ++
          .present [conf ^^^ p.k2] :: q) := by
  simp [handshakeAnswers]

/-- Settles O38: the handshake's pieces, one after the other. -/
theorem handshakeRuns : Obligations.HandshakeRuns := by
  intro s dI dR q hs hdev
  have ⟨hq, hb, _, h0⟩ := hs
  rw [handshakeAnswers_eq] at hdev
  rw [handshakeSteps_eq]
  refine steps_append (steps_open_progReq hs hdev) ?_
  refine steps_append (steps_listen_baud_echo ⟨hq, hb, rfl, rfl⟩ rfl) ?_
  refine steps_append (steps_verReq_ident_key ⟨hq, hb, rfl, rfl⟩ rfl) ?_
  refine steps_append (steps_mark_resp (dR := dR) ⟨hq, hb, rfl, rfl⟩ rfl rfl) ?_
  refine Eq.trans (steps_conf2 ⟨hq, hb, rfl, rfl⟩ rfl) ?_
  simp only [handshakeEvents, h0, List.append_assoc, List.cons_append, List.nil_append]

end Sys2Proof.Machine

/-! SUPPORT. The end of a session that LISTEN fails (R124): the termination sequence of a failed
session, step by step. -/

namespace Sys2Proof.Machine

open Sys2Proof.Config

/-! ## What holds all along a run -/

/-- `k` steps lead from `s` to `t`, and `P` holds of every state on the way, the two ends among
them. -/
structure State.RunsTo (P : State → Prop) (k : Nat) (s t : State) : Prop where
  reaches : steps k s = .next t
  along : ∀ j u, j ≤ k → steps j s = .next u → P u

theorem runsTo_zero {P : State → Prop} {s : State} (hs : P s) : s.RunsTo P 0 s where
  reaches := steps_zero s
  along j u hj h := by
    obtain rfl := Nat.le_zero.1 hj
    obtain rfl := Host.Outcome.next.inj h
    exact hs

theorem runsTo_succ {P : State → Prop} {s t u : State} {k : Nat} (hs : P s)
    (hstep : step s = .next t) (ht : t.RunsTo P k u) : s.RunsTo P (k + 1) u where
  reaches := steps_next hstep ht.reaches
  along j v hj h := by
    cases j with
    | zero => exact (runsTo_zero hs).along 0 v le_rfl h
    | succ j => exact ht.along j v (by omega) ((steps_succ j hstep).symm.trans h)

/-! ## The steps of the failure path -/

/-- The error of a LISTEN that the answer `a` fails (R123, R124). -/
def listenError (code : Byte) (a : DevAnswer) : Failure :=
  { kind := if oneByte a = none then .timeout else .handshakeRejected,
    info := { exp := code, act := (oneByte a).getD 0, slot := 0, field := .none,
              phase := .hsListen } }

/-- A LISTEN whose byte is wrong or does not come takes the failure path (R123). -/
theorem step_listen_fail {s : State} {a : DevAnswer} {q : List DevAnswer} (hs : atPhase s .listen)
    (hd : s.devQueue = a :: q) (ha : oneByte a ≠ some s.par.listenCode) :
    step s = .next ((s.afterRx 1).fail (listenError s.par.listenCode a)) := by
  obtain ⟨hq, hb, hp, _⟩ := hs
  rw [step_session hq hb, hp, State.seqPhase, State.stepListen, rxAnswer_one hd]
  cases hbyte : oneByte a with
  | none => simp [listenError, timeoutFailure, hbyte]
  | some b =>
    have hne : b ≠ s.par.listenCode := by simpa [hbyte] using ha
    simp [listenError, ErrInfo.clear, recByte, hbyte, hne]

/-- On the failure path the termination check goes on to CLOSE whatever DEV answers; only TERMFAIL
tells (R148, R164). -/
theorem step_termCheck_failed {s : State} {f : Failure} {c : DevAnswer} {q : List DevAnswer}
    (hs : atPhase s .termCheck) (hf : s.seq.error = some f) (hd : s.devQueue = c :: q) :
    step s = .next
      { s with
        devQueue := q
        trace := s.trace ++ [.rx 1 ((oneByte c).map fun b => [b])]
        status := { s.status with
          termFail := s.status.termFail ||
            !decide ((oneByte c).map (· ^^^ s.par.k2) = some conf) }
        seq := { s.seq with phase := .termClose, sent := 0 } } := by
  obtain ⟨hq, hb, hp, _⟩ := hs
  rw [step_session hq hb, hp, State.seqPhase]
  have hiff := checkFailure_oneByte_none_iff s.par.k2 .term 0 c
  rw [← rxAnswer_one hd] at hiff
  rcases stepTermCheck_cases s with ⟨hnone, h⟩ | ⟨g, _, hsome, _, h⟩ | ⟨_, _, herr, _⟩
  · rw [h, afterRx_one hd, hiff.1 hnone]
    simp only [decide_true, Bool.not_true, Bool.or_false]
    rfl
  · have hne : ¬ (oneByte c).map (· ^^^ s.par.k2) = some conf := fun hc => by
      rw [hiff.2 hc] at hsome; cases hsome
    rw [h, afterRx_one hd, decide_eq_false hne, Bool.not_false, Bool.or_true]
    rfl
  · rw [hf] at herr; cases herr

/-- CLOSE on the failure path: the session ends with the error under report (R148, R150). -/
theorem step_termClose_failed {s : State} {f : Failure} (hs : atPhase s .termClose)
    (hf : s.seq.error = some f) :
    step s = .next ((((s.emit .close).endSession).setSession .failed).endWithError f) := by
  obtain ⟨hq, hb, hp, _⟩ := hs
  rw [step_session hq hb, hp, State.seqPhase, State.stepTermClose, hf]

/-- What the failure path leaves: END, the check's RX and CLOSE in the trace, the link closed and
the error `f` reported (R148, R150, R164). -/
structure State.EndsFailed (s : State) (f : Failure) (c : DevAnswer) (t : State) : Prop where
  trace : t.trace = s.trace ++ [.tx (s.par.endCode ^^^ s.par.k2),
    .rx 1 ((oneByte c).map fun b => [b]), .close]
  busy : t.status.busy = false
  err : t.status.err = true
  sstate : t.status.sstate = .failed
  link : t.status.link = false
  ecode : t.status.ecode = some f.kind
  errInfo : t.errInfo = f.info
  mem : t.mem = s.mem

/-- The termination sequence of a failed session, none of whose steps raises the rate. -/
theorem runsTo_endsFailed {s : State} {f : Failure} {c : DevAnswer} {q : List DevAnswer}
    (hs : atPhase s .termSend) (hf : s.seq.error = some f) (hd : s.devQueue = c :: q) :
    ∃ t, s.EndsFailed f c t ∧
      s.RunsTo (fun u => s.status.baudHi = false → u.status.baudHi = false) 3 t := by
  have ⟨hq, hb, _, _⟩ := hs
  refine ⟨_, ?_, runsTo_succ id (step_sendByte hs (fun _ => rfl) rfl) <|
    runsTo_succ id (step_termCheck_failed ⟨hq, hb, rfl, rfl⟩ hf hd) <|
    runsTo_succ id (step_termClose_failed ⟨hq, hb, rfl, rfl⟩ hf) <|
    runsTo_zero fun _ => rfl⟩
  exact ⟨by simp, rfl, rfl, rfl, rfl, rfl, rfl, rfl⟩

/-- Settles O40: the failed LISTEN leads to the termination sequence, and the rate stays low all
along. -/
theorem listenFailureOnlyTerminates : Obligations.ListenFailureOnlyTerminates := by
  intro s a c q hs hdev ha
  have ⟨hq, hb, _, _⟩ := hs
  obtain ⟨t, hend, hrun⟩ := runsTo_endsFailed (f := listenError s.par.listenCode a)
    (s := (s.afterRx 1).fail (listenError s.par.listenCode a)) (c := c) (q := q)
    ⟨by simpa using hq, by simpa using hb, rfl, rfl⟩ rfl (by simp [answered_cons s _ _ hdev])
  have hall := runsTo_succ (P := fun u => s.status.baudHi = false → u.status.baudHi = false) id
    (step_listen_fail hs hdev ha) (by simpa using hrun)
  refine ⟨t, hall.reaches, ?_, hend.busy, hend.err, hend.sstate, hend.link, ?_, hend.errInfo,
    fun x => by simp [hend.mem], fun hlow k u hk hu => hall.along k u hk hu hlow⟩
  · simp [hend.trace, rxAnswer_one hdev, State.par]
  · exact hend.ecode.trans (apply_ite some _ _ _)

end Sys2Proof.Machine

/-! SUPPORT. Which steps of SEQ perform BAUD and which make the session Listening (R123, R125): one
each. -/

namespace Sys2Proof.Machine

open Sys2Proof.Config

/-! ## What a step performs -/

/-- A step of the sending of a frame performs no event but a TX. -/
theorem sendFrame_event {s : State} {p : SeqPhase} {ev : Event}
    (h : (s.sendFrame p).trace = s.trace ++ [ev]) : ∃ b, ev = .tx b := by
  rcases sendFrame_cases s p with ⟨b, _, _, he⟩ | ⟨b, _, _, he⟩ | ⟨_, he⟩
  · exact ⟨b, event_unique h (by rw [he])⟩
  · exact ⟨b, event_unique h (by rw [he])⟩
  · simp [he] at h

/-- Everything a step of SEQ can perform: a TX, a read, an OPEN, or BAUD and CLOSE in their own
phases (R121, R125, R135, R147). -/
theorem seqPhase_event_cases {s : State} {p : SeqPhase} {ev : Event}
    (h : (s.seqPhase p).trace = s.trace ++ [ev]) :
    (∃ b, ev = .tx b) ∨ (∃ n a, ev = .rx n a) ∨ (∃ ok, ev = .openLink ok) ∨
      (p = .baud ∧ ev = .baud s.par.baudHigh) ∨ (p = .termClose ∧ ev = .close) := by
  have hrx : ∀ {n a}, (s.seqPhase p).trace = s.trace ++ [.rx n a] → ∃ n a, ev = .rx n a :=
    fun h' => ⟨_, _, event_unique h h'⟩
  cases p
  case idle => simp [State.seqPhase] at h
  case openLink => exact .inr (.inr (.inl ⟨_, event_unique h (stepOpen_trace s)⟩))
  case baud => exact .inr (.inr (.inr (.inl ⟨rfl, event_unique h rfl⟩)))
  case termClose => exact .inr (.inr (.inr (.inr ⟨rfl, event_unique h (stepTermClose_trace s)⟩)))
  case listen => exact .inr (.inl (hrx (stepListen_trace s)))
  case echo0 | conf1Echo => exact .inr (.inl (hrx (check_trace s _ _ _ fun _ => rfl)))
  case conf2Echo =>
    exact .inr (.inl (hrx
      (check_trace s _ _ _ fun t => firstTransaction_trace (t.setSession .keyExchanged))))
  case readCheck => exact .inr (.inl (hrx (check_trace s _ _ _ commitRead_trace)))
  case writeCheck g => exact .inr (.inl (hrx (check_trace s _ _ _ (commitWrite_trace · g))))
  case ident | resp | readData =>
    exact .inr (.inl (hrx (receive_trace s _ _ _ fun _ _ => rfl)))
  case termCheck => exact .inr (.inl (hrx (stepTermCheck_trace s)))
  case readDesc | writeDesc =>
    exact .inl (sendFrame_event (s := s.activate) (by rw [activate_trace]; exact h))
  case progReq | verReq | keySend | conf1 | mark | conf2 | readAck | writeData | writeSum
      | termSend =>
    exact .inl (sendFrame_event h)

/-- A step that performs BAUD is the step BAUD, which raises the rate to BAUD_HIGH (R125). -/
theorem baud_of_event {s : State} {p : SeqPhase} {r : Nat}
    (h : (s.seqPhase p).trace = s.trace ++ [.baud r]) : p = .baud ∧ r = s.par.baudHigh := by
  rcases seqPhase_event_cases h with ⟨_, he⟩ | ⟨_, _, he⟩ | ⟨_, he⟩ | ⟨hp, he⟩ | ⟨_, he⟩
  case inr.inr.inr.inl => exact ⟨hp, Event.baud.inj he⟩
  all_goals cases he

/-! ## Listening -/

/-- `t` is Listening only if `s` was: what lies between did not make the session so. -/
def State.ListeningFrom (s t : State) : Prop :=
  t.status.sstate = .listening → s.status.sstate = .listening

theorem listeningFrom_of_eq {s t : State} (h : t.status.sstate = s.status.sstate) :
    s.ListeningFrom t := fun ht => h.symm.trans ht

theorem listeningFrom_of_ne {s t : State} (h : t.status.sstate ≠ .listening) :
    s.ListeningFrom t := fun ht => absurd ht h

theorem listeningFrom_sendFrame (s : State) (p : SeqPhase) : s.ListeningFrom (s.sendFrame p) := by
  rcases sendFrame_cases s p with ⟨_, _, _, h⟩ | ⟨_, _, _, h⟩ | ⟨_, h⟩ <;>
    exact listeningFrom_of_eq (by rw [h])

theorem listeningFrom_activate (s : State) : s.ListeningFrom s.activate := by
  rcases activate_cases s with ⟨_, h⟩ | ⟨_, h⟩
  · exact listeningFrom_of_ne (by simp [h])
  · exact listeningFrom_of_eq (by rw [h])

theorem listeningFrom_check (s : State) (key : Byte) (ph : ErrPhase) (slot : Nat)
    {pass : State → State} (hp : ∀ t : State, t.ListeningFrom (pass t)) :
    s.ListeningFrom (s.check key ph slot pass) := by
  rcases check_cases s key ph slot pass with ⟨_, _, _, h⟩ | ⟨_, h⟩ | ⟨_, _, _, h⟩ <;> rw [h]
  · exact fun ht => by simpa using hp _ ht
  · exact listeningFrom_of_ne (by simp)
  · exact listeningFrom_of_ne (by simp)

theorem listeningFrom_receive (s : State) (n : Nat) (ph : ErrPhase) (slot : Nat)
    {pass : List Byte → State → State} (hp : ∀ d (t : State), t.ListeningFrom (pass d t)) :
    s.ListeningFrom (s.receive n ph slot pass) := by
  rcases receive_cases s n ph slot pass with ⟨_, _, h⟩ | ⟨_, h⟩ <;> rw [h]
  · exact fun ht => by simpa using hp _ _ ht
  · exact listeningFrom_of_ne (by simp)

theorem listeningFrom_nextSlot (s : State) (p : SeqPhase) : s.ListeningFrom (s.nextSlot p) := by
  rcases nextSlot_cases s p with ⟨_, h⟩ | ⟨_, h⟩ <;> rw [h]
  · exact listeningFrom_of_eq rfl
  · exact listeningFrom_of_ne (by simp)

theorem listeningFrom_commitWrite (s : State) (g : Target) :
    s.ListeningFrom (s.commitWrite g) := by
  cases g with
  | scanKey => simp only [State.commitWrite]; split <;> exact listeningFrom_of_eq rfl
  | mask => exact listeningFrom_of_eq rfl
  | slot => exact listeningFrom_nextSlot s.countSlot _

theorem firstTransaction_status (s : State) : s.firstTransaction.status = s.status := by
  unfold State.firstTransaction
  split <;> rfl

theorem listeningFrom_stepOpen (s : State) : s.ListeningFrom s.stepOpen := by
  rcases stepOpen_cases s with ⟨_, h⟩ | ⟨_, h⟩ <;> rw [h]
  · exact listeningFrom_of_eq rfl
  · exact listeningFrom_of_ne (by simp)

theorem listeningFrom_stepTermCheck (s : State) : s.ListeningFrom s.stepTermCheck := by
  rcases stepTermCheck_cases s with ⟨_, h⟩ | ⟨_, _, _, _, h⟩ | ⟨_, _, _, h⟩ <;>
    exact listeningFrom_of_eq (by simp [h])

theorem listeningFrom_stepTermClose (s : State) : s.ListeningFrom s.stepTermClose := by
  rcases stepTermClose_cases s with ⟨_, _, h⟩ | ⟨_, h⟩ <;> rw [h]
  · exact listeningFrom_of_ne (by simp)
  · exact listeningFrom_of_eq (by simp)

/-- No step but LISTEN makes the session Listening. -/
theorem listeningFrom_seqPhase (s : State) {p : SeqPhase} (hp : p ≠ .listen) :
    s.ListeningFrom (s.seqPhase p) := by
  cases p
  case listen => exact absurd rfl hp
  case idle | baud => exact listeningFrom_of_eq rfl
  case openLink => exact listeningFrom_stepOpen s
  case echo0 | conf1Echo => exact listeningFrom_check s _ _ _ fun _ => listeningFrom_of_eq rfl
  case conf2Echo =>
    refine listeningFrom_check s _ _ _ fun t => listeningFrom_of_ne ?_
    simp [firstTransaction_status]
  case readCheck =>
    exact listeningFrom_check s _ _ _ fun t => listeningFrom_nextSlot t.stageStored.countSlot _
  case writeCheck g => exact listeningFrom_check s _ _ _ (listeningFrom_commitWrite · g)
  case ident | resp | readData =>
    exact listeningFrom_receive s _ _ _ fun _ _ => listeningFrom_of_eq rfl
  case readDesc | writeDesc =>
    exact fun ht => listeningFrom_activate s (listeningFrom_sendFrame s.activate _ ht)
  case termCheck => exact listeningFrom_stepTermCheck s
  case termClose => exact listeningFrom_stepTermClose s
  case progReq | verReq | keySend | conf1 | mark | conf2 | readAck | writeData | writeSum
      | termSend =>
    exact listeningFrom_sendFrame s _

/-- LISTEN makes the session Listening only by delivering LISTEN_CODE (R123). -/
theorem rx_of_stepListen {s : State} (h : s.stepListen.status.sstate = .listening) :
    s.stepListen.trace = s.trace ++ [.rx 1 (some [s.par.listenCode])] := by
  rw [stepListen_trace]
  rcases stepListen_cases s with ⟨bs, ha, hcode, _⟩ | ⟨_, he⟩ | ⟨_, _, _, he⟩
  · obtain ⟨b, rfl⟩ := List.length_eq_one_iff.1 (rxAnswer_length ha)
    obtain rfl : b = s.par.listenCode := hcode
    rw [ha]
  · simp [he] at h
  · simp [he] at h

/-! ## Steps between commands -/

/-- Between commands HOST's polling and waiting performs no event and leaves SSTATE alone. -/
theorem step_idle_seqTurn {s t : State} (hb : s.status.busy = false) (hturn : s.seqTurn = true)
    (h : step s = .next t) : t.trace = s.trace ∧ t.status = s.status := by
  unfold State.seqTurn at hturn
  split at hturn
  next hq =>
    rw [step_nil hq, seqStep_idle hb] at h
    obtain rfl := Host.Outcome.next.inj h
    exact ⟨rfl, rfl⟩
  next rest hq =>
    rw [step_poll hq, if_neg (by simp [hb])] at h
    obtain rfl := Host.Outcome.next.inj h
    rcases hostRead_cases { s with hostQueue := rest } 4 0x00C with ⟨_, _, he⟩ | ⟨_, he⟩ <;>
      rw [he] <;> exact ⟨rfl, rfl⟩
  next rest hq =>
    rw [step_wait hq, seqStep_idle (by exact hb)] at h
    obtain rfl := Host.Outcome.next.inj h
    exact ⟨rfl, rfl⟩
  all_goals cases hturn

/-- Settles O49: between commands nothing happens, and in a session BAUD is the step BAUD, which the
invariant puts in SSTATE Listening, and only LISTEN leads there. -/
theorem baudRaisedOnlyAfterListen : Obligations.BaudRaisedOnlyAfterListen := by
  intro s t hc hturn hstep
  cases hb : s.status.busy with
  | false =>
    obtain ⟨htrace, hstatus⟩ := step_idle_seqTurn hb hturn hstep
    refine ⟨fun r hr => ?_, fun ht hs => ?_⟩
    · simp [htrace] at hr
    · rw [hstatus] at ht
      exact absurd ht hs
  | true =>
    have hphase := ((inSession_iff s).2 ⟨hc, hb⟩).phase
    obtain ⟨rest, hr⟩ := step_seqTurn hturn hb
    obtain rfl := Host.Outcome.next.inj (hr.symm.trans hstep)
    refine ⟨fun r hbaud => ?_, fun ht hs => ?_⟩
    · obtain ⟨hp, hrate⟩ := baud_of_event (s := s) hbaud
      simp only [State.phaseOk, hp, handshakeOk_iff] at hphase
      obtain ⟨hlistening, _⟩ := hphase
      exact ⟨hlistening, hrate, by rw [hp]; rfl⟩
    · by_cases hp : s.seq.phase = .listen
      · rw [hp] at ht ⊢
        exact rx_of_stepListen ht
      · exact absurd (listeningFrom_seqPhase s hp ht) hs

end Sys2Proof.Machine

/-! SUPPORT. The start of the session commands (R115, R150, R153, R154): the state that the step of
the CMD write leaves, and the WRALL that ends there. -/

namespace Sys2Proof.Machine

open Sys2Proof.Config

/-- A session's start, field by field (R16, R115, R132). -/
theorem latchSession_beginHandshake_eq (s : State) :
    s.latchSession.beginHandshake =
      { s with
        latchedCfg := s.cfg
        latchedKey1 := s.key1
        k1s := if cfgPvar s.cfg then s.key1 else 0x00
        status := { s.status with busy := true, sstate := .idle }
        seq := { s.seq with
          phase := .openLink, sent := 0, slot := 0, doneSlots := 0, error := none }
        trace := [] } := rfl

theorem exec_rdall (s : State) : exec .rdall s = .next s.latchSession.beginHandshake := rfl

/-- WRALL of a table that encodes stores the image and starts the session (R154). -/
theorem exec_wrall_ok {s : State} {rs : List (List Byte)}
    (h : encodeTable s.par s.cfg s.mem = .ok rs) :
    exec .wrall s = .next (s.storeImage rs).latchSession.beginHandshake := by
  rw [exec, execWrall, h]
  rfl

/-- WRALL of a table that does not encode ends before OPEN (R154, D30). -/
theorem exec_wrall_error {s : State} {i : SlotIx} {kf : ErrorKind × RecField}
    (h : encodeTable s.par s.cfg s.mem = .error (i, kf)) :
    exec .wrall s = .next
      ({ s.latchSession with trace := [] }.failUnopened (recordFailure .encode i kf)) := by
  rw [exec, execWrall, h]

/-- Settles O35: RDALL starts the session and does nothing else. -/
theorem rdallStartsSession : Obligations.RdallStartsSession := fun s =>
  (exec_rdall s).trans (congrArg Host.Outcome.next (latchSession_beginHandshake_eq s))

/-- Settles O36: the image is that of the encoded table, stored before the session starts. -/
theorem wrallEncodesThenStartsSession : Obligations.WrallEncodesThenStartsSession := by
  intro s hall
  rcases encodeTable_cases s.par s.cfg s.mem with
    ⟨_, rs, henc, hcount, hlen, hget⟩ | ⟨i, fld, _, hfld, _⟩
  · refine ⟨writeImage s.mem rs, activeMask s.mem, ?_, fun i => ?_,
      fun a ha => writeImage_outside s.mem rs hcount hlen a (.inl ha), activeMask_getLsbD s.mem⟩
    · rw [exec_wrall_ok henc, latchSession_beginHandshake_eq]
      rfl
    · rw [readRecord_writeImage s.mem rs hcount hlen i]
      exact hget i
  · rw [hall i] at hfld
    cases hfld

/-- Settles O37: the encode stops at the lowest slot that fails, and nothing has been stored or
sent. -/
theorem wrallEncodeErrorEndsBeforeOpen : Obligations.WrallEncodeErrorEndsBeforeOpen := by
  intro s i fld hlow hfld
  exact ⟨_, exec_wrall_error (encodeTable_error hlow hfld), rfl, rfl, rfl, rfl, rfl, rfl, rfl,
    fun _ => rfl, rfl, rfl, rfl, rfl, rfl, rfl⟩

end Sys2Proof.Machine

/-! SUPPORT. The termination sequence with either outcome (R147, R148, R149): END, the check, CLOSE
and what the session then reports. -/

namespace Sys2Proof.Machine

open Sys2Proof.Config

/-- A termination check that DEV confirms leaves SEQ.ERROR as it is, on both paths (R148, R149). -/
theorem step_termCheck_confirmed {s : State} {c : DevAnswer} {q : List DevAnswer}
    (hs : atPhase s .termCheck) (hc : (oneByte c).map (· ^^^ s.par.k2) = some conf)
    (hd : s.devQueue = c :: q) :
    step s = .next
      { s with
        devQueue := q
        trace := s.trace ++ [.rx 1 ((oneByte c).map fun b => [b])]
        seq := { s.seq with phase := .termClose, sent := 0 } } := by
  obtain ⟨hq, hb, hp, _⟩ := hs
  rw [step_session hq hb, hp, State.seqPhase, State.stepTermCheck, rxAnswer_one hd,
    afterRx_one hd, (checkFailure_oneByte_none_iff _ _ _ _).2 hc]
  rfl

/-- On the success path a termination check that is not confirmed becomes the session's error
(R149). -/
theorem step_termCheck_unconfirmed {s : State} {c : DevAnswer} {q : List DevAnswer}
    (hs : atPhase s .termCheck) (he : s.seq.error = none)
    (hc : (oneByte c).map (· ^^^ s.par.k2) ≠ some conf) (hd : s.devQueue = c :: q) :
    step s = .next
      { s with
        devQueue := q
        trace := s.trace ++ [.rx 1 ((oneByte c).map fun b => [b])]
        seq := { s.seq with
          phase := .termClose, sent := 0, error := some (checkError s.par.k2 .term 0 c) } } := by
  obtain ⟨hq, hb, hp, _⟩ := hs
  rw [step_session hq hb, hp, State.seqPhase, State.stepTermCheck, rxAnswer_one hd,
    afterRx_one hd, checkFailure_of_ne hc]
  simp only [he]
  rfl

/-- CLOSE on the failure path, field by field (R148, R150). -/
theorem step_termClose_failed_eq {s : State} {f : Failure} (hs : atPhase s .termClose)
    (hf : s.seq.error = some f) :
    step s = .next
      { s with
        trace := s.trace ++ [.close]
        k1s := 0
        res := BitVec.ofNat 32 s.seq.doneSlots
        errInfo := f.info
        status := { s.status with
          busy := false, done := true, err := true, ecode := some f.kind, sstate := .failed,
          link := false, baudHi := false }
        seq := { s.seq with op := none, phase := .idle, sent := 0, slot := 0, error := none } } :=
  step_termClose_failed hs hf

/-- CLOSE on the success path: the session ends without error (R149, R150). -/
theorem step_termClose_terminated {s : State} (hs : atPhase s .termClose)
    (he : s.seq.error = none) :
    step s = .next
      { s with
        trace := s.trace ++ [.close]
        k1s := 0
        res := BitVec.ofNat 32 s.seq.doneSlots
        status := { s.status with
          busy := false, done := true, err := false, ecode := none, link := false, baudHi := false }
        seq := { s.seq with op := none, phase := .idle, sent := 0, slot := 0 } } := by
  obtain ⟨hq, hb, hp, _⟩ := hs
  rw [step_session hq hb, hp, State.seqPhase, State.stepTermClose, he]
  rfl

/-- Settles O44: the check leaves the error as it is, and CLOSE reports it. -/
theorem failurePathReportsFirstError : Obligations.FailurePathReportsFirstError := by
  intro s f a q hs hf hdev
  have ⟨hq, hb, _, _⟩ := hs
  refine steps_next (step_sendByte hs (fun _ => rfl) rfl) ?_
  refine steps_next (step_termCheck_failed ⟨hq, hb, rfl, rfl⟩ hf hdev) ?_
  refine steps_next (step_termClose_failed_eq ⟨hq, hb, rfl, rfl⟩ hf) ?_
  rw [steps_zero, List.append_assoc, List.append_assoc]
  rfl

/-- Settles O45: CLOSE reports what the termination check found. -/
theorem successPathChecksTermination : Obligations.SuccessPathChecksTermination := by
  intro s a q hs he hdev
  have ⟨hq, hb, _, _⟩ := hs
  have hend := step_sendByte hs (fun _ => rfl) rfl
  by_cases hc : (oneByte a).map (· ^^^ s.par.k2) = some conf
  · refine ⟨_, steps_next hend <|
      steps_next (step_termCheck_confirmed ⟨hq, hb, rfl, rfl⟩ hc hdev) <|
      steps_next (step_termClose_terminated ⟨hq, hb, rfl, rfl⟩ he) (steps_zero _),
      by simp [State.par], rfl, rfl, rfl, rfl, rfl, by simp [he], fun _ => ⟨rfl, rfl⟩, absurd hc⟩
  · refine ⟨_, steps_next hend <|
      steps_next (step_termCheck_unconfirmed ⟨hq, hb, rfl, rfl⟩ he hc hdev) <|
      steps_next (step_termClose_failed_eq ⟨hq, hb, rfl, rfl⟩ rfl) (steps_zero _),
      by simp [State.par], rfl, rfl, rfl, rfl, rfl, rfl, fun h => absurd h hc, fun _ => ⟨rfl, ?_⟩⟩
    simp only [checkError, apply_ite some]

/-- Settles O46: the failed check takes the session to the failure path (`failedReadFailsSession`),
which ends it (`failurePathReportsFirstError`). -/
theorem ninthSlotCheckFailureEndsWriteSession :
    Obligations.NinthSlotCheckFailureEndsWriteSession := by
  intro s d c q ⟨hq, hb, hp, _⟩ hslot hdone hdev hne
  obtain ⟨hfail, _⟩ := failedReadFailsSession
  have hcheck : checkOf s s.seq.phase = some (s.par.k2, .slotAck, s.seq.slot) := by rw [hp]; rfl
  have hne' : (oneByte (.present d)).map (· ^^^ s.par.k2) ≠ some 0x06 := fun h =>
    hne (Option.some.inj h)
  refine ⟨_, steps_next (hfail s _ _ _ _ _ hq hb hcheck hdev hne')
    (failurePathReportsFirstError _ _ c q ⟨hq, hb, rfl, rfl⟩ rfl rfl),
    ?_, rfl, rfl, rfl, ?_, rfl, ?_⟩
  · simp [oneByte]
  · simp [hslot]
  · simp [hdone]

end Sys2Proof.Machine

/-! SUPPORT. The transactions against a device that answers rightly (R138..R146): the events of each,
and where its check leaves the session. -/

namespace Sys2Proof.Machine

open Sys2Proof.Config

/-! ## The phases that read -/

theorem seqPhase_readData (s : State) :
    s.seqPhase .readData = s.receive 32 .slotData s.seq.slot fun d t =>
      { t with stage := xorBytes s.par.k2 d }.goto t.afterReadData := rfl

theorem seqPhase_readCheck (s : State) :
    s.seqPhase .readCheck = s.check s.par.k2 .slotAck s.seq.slot (·.commitRead) := rfl

theorem seqPhase_writeCheck (s : State) (g : Target) :
    s.seqPhase (.writeCheck g) =
      s.check s.par.k2 g.errPhase (s.checkSlot g) (·.commitWrite g) := rfl

/-! ## Read transactions -/

/-- The acknowledgement that READ_ACK_MODE calls for, and the check (R140). -/
theorem steps_readAck_readCheck {s : State} {q : List DevAnswer} {p : SeqPhase} {n : Nat}
    (hs : atPhase s p) (hp : p = s.afterReadData)
    (hn : n = if s.par.readAckMode = .sendThenCheck then 2 else 1)
    (hd : s.devQueue = .present [conf ^^^ s.par.k2] :: q) :
    steps n s = .next (State.commitRead
      { s with
        devQueue := q
        trace := s.trace ++
          ((if s.par.readAckMode = .sendThenCheck then [.tx (conf ^^^ s.par.k2)] else []) ++
            [.rx 1 (some [conf ^^^ s.par.k2])])
        seq := { s.seq with phase := .readCheck, sent := 0 } }) := by
  have ⟨hq, hb, hph, h0⟩ := hs
  subst hp hn
  cases hm : s.par.readAckMode with
  | sendThenCheck =>
    simp only [State.afterReadData, hm] at hs
    refine steps_next (step_sendByte hs (fun _ => rfl) rfl) ?_
    refine steps_next (step_check_ok ⟨hq, hb, rfl, rfl⟩ (seqPhase_readCheck _) hd) ?_
    rw [steps_zero, List.append_assoc]
    rfl
  | checkOnly =>
    simp only [State.afterReadData, hm] at hs hph
    refine steps_next (step_check_ok hs (seqPhase_readCheck _) hd) ?_
    rw [steps_zero, ← hph, ← h0]
    rfl

/-- A read transaction up to its check, which stores STAGE (R139, R140). -/
theorem steps_readTransaction {s : State} {d : List Byte} {q : List DevAnswer}
    (hs : atPhase s .readDesc)
    (hk : s.status.sstate = .active ∨ s.status.sstate = .keyExchanged)
    (hd : s.devQueue = .present d :: .present [conf ^^^ s.par.k2] :: q) :
    steps (if s.par.readAckMode = .sendThenCheck then 7 else 6) s = .next (State.commitRead
      { s with
        devQueue := q
        stage := xorBytes s.par.k2 (answerBytes d 32)
        status := { s.status with sstate := .active }
        trace := s.trace ++ readEvents s.par s.seq.slot d
        seq := { s.seq with phase := .readCheck, sent := 0 } }) := by
  have ⟨hq, hb, hp, h0⟩ := hs
  have hsteps : (if s.par.readAckMode = .sendThenCheck then 7 else 6) =
      4 + ((if s.par.readAckMode = .sendThenCheck then 2 else 1) + 1) := by split <;> rfl
  rw [hsteps]
  refine steps_append (steps_sendDescriptor rfl (fun _ => rfl) hq hb hp h0 hk
    (show 2 ≤ 4 by decide)) ?_
  refine steps_next (step_receive_ok ⟨hq, hb, rfl, rfl⟩ (seqPhase_readData _) hd) ?_
  refine Eq.trans (steps_readAck_readCheck ⟨hq, hb, rfl, rfl⟩ rfl rfl rfl) ?_
  simp only [readEvents, goto_trace, List.append_assoc]
  rfl

/-- The end of a slot's transaction: the slot is counted, and the loop goes to the next slot or,
after slot 16, to the termination sequence (R146). -/
theorem countSlot_nextSlot_eq (s : State) (p : SeqPhase) :
    s.countSlot.nextSlot p =
      { s with
        status := { s.status with
          sstate := if s.seq.slot < 16 then s.status.sstate else .terminated }
        seq :=
          if s.seq.slot < 16 then
            { s.seq with
              phase := p, sent := 0, slot := s.seq.slot + 1, doneSlots := s.seq.doneSlots + 1 }
          else
            { s.seq with
              phase := .termSend, sent := 0, slot := 0, doneSlots := s.seq.doneSlots + 1 } } := by
  by_cases h : s.seq.slot < 16
  · simp only [if_pos h]
    exact if_pos h
  · simp only [if_neg h]
    exact if_neg h

/-- A byte of the decrypted data block (R116, R139). -/
theorem xorBytes_answerBytes_getD (key : Byte) (d : List Byte) {n k : Nat} (hk : k < n) :
    (xorBytes key (answerBytes d n)).getD k 0 = d.getD k 0 ^^^ key := by
  simp [xorBytes, answerBytes, hk]

@[simp] theorem xorBytes_length (key : Byte) (d : List Byte) : (xorBytes key d).length = d.length :=
  List.length_map _

/-- The slot index of a slot number 1..16. -/
theorem exists_slotIx {n : Nat} (h1 : 1 ≤ n) (h16 : n ≤ 16) : ∃ i : SlotIx, n = i.number :=
  ⟨⟨n - 1, by omega⟩, (Nat.sub_add_cancel h1).symm⟩

/-- Settles O41: the transaction up to its check, then the store of STAGE and the slot's end. -/
theorem readTransactionStoresRecord : Obligations.ReadTransactionStoresRecord := by
  intro s d q hs h1 h16 hk hd
  have ⟨_, _, hp, h0⟩ := hs
  obtain ⟨i, hi⟩ := exists_slotIx h1 h16
  have hlen : (xorBytes s.par.k2 (answerBytes d 32)).length = 32 := by simp
  refine ⟨writeRecord s.mem i (xorBytes s.par.k2 (answerBytes d 32)), ?_, fun k hk32 => ?_,
    fun a ha => ?_⟩
  · rw [steps_readTransaction hs hk hd, commitRead_eq, countSlot_nextSlot_eq]
    simp only [hp, h0, State.stageStored, readEvents, List.append_assoc, writeRecord, imgAddr, ← hi]
    rfl
  · rw [hi]
    exact (writeRecord_read s.mem i _ hlen k hk32).trans
      (xorBytes_answerBytes_getD s.par.k2 d hk32)
  · rw [hi] at ha
    exact writeRecord_outside s.mem i _ hlen a ha

/-! ## Write transactions -/

/-- The data bytes and the checksum byte of a write transaction (R142). -/
theorem steps_writeData_writeSum {s : State} {g : Target} (hs : atPhase s (.writeData g))
    (hk : s.status.sstate = .active) (hlen : (s.writeBytesOf g).length ≠ 0) :
    steps ((s.writeBytesOf g).length + 1) s = .next
      { s with
        trace := s.trace ++ ((s.writeBytesOf g).map (fun b => Event.tx (b ^^^ s.par.k2)) ++
          [.tx (checksum (s.writeBytesOf g) ^^^ s.par.k2)])
        seq := { s.seq with phase := .writeCheck g, sent := 0 } } := by
  have ⟨hq, hb, hp, h0⟩ := hs
  have hframe : (s.frame (.writeData g)).length = (s.writeBytesOf g).length := List.length_map _
  have hdata := steps_sendFrame rfl hq hb hp h0 (by simp [hk]) (hframe ▸ hlen)
  rw [hframe, State.frame, xorBytes, List.map_map] at hdata
  refine steps_append hdata ?_
  refine steps_next (step_sendByte ⟨hq, hb, rfl, rfl⟩ (fun _ => rfl) rfl) ?_
  rw [steps_zero, List.append_assoc]
  rfl

/-- A write transaction up to its check (R142..R145). -/
theorem steps_writeTransaction {s : State} {g : Target} {q : List DevAnswer}
    (hs : atPhase s (.writeDesc g))
    (hk : s.status.sstate = .active ∨ s.status.sstate = .keyExchanged)
    (hlen : (s.writeBytesOf g).length ≠ 0)
    (hd : s.devQueue = .present [conf ^^^ s.par.k2] :: q) :
    steps ((s.writeBytesOf g).length + 6) s = .next (State.commitWrite
      { s with
        devQueue := q
        status := { s.status with sstate := .active }
        trace := s.trace ++ writeEvents s.par (s.writeAddrOf g) (s.writeBytesOf g)
        seq := { s.seq with phase := .writeCheck g, sent := 0 } } g) := by
  have ⟨hq, hb, hp, h0⟩ := hs
  rw [show (s.writeBytesOf g).length + 6 = 4 + ((s.writeBytesOf g).length + 1 + 1) by omega]
  refine steps_append (steps_sendDescriptor rfl (fun _ => rfl) hq hb hp h0 hk
    (show 2 ≤ 4 by decide)) ?_
  refine steps_append (steps_writeData_writeSum (g := g) ⟨hq, hb, rfl, rfl⟩ rfl hlen) ?_
  refine steps_next (step_check_ok ⟨hq, hb, rfl, rfl⟩ (seqPhase_writeCheck _ g) hd) ?_
  rw [steps_zero]
  simp only [writeEvents, List.append_assoc]
  rfl

/-- What follows a write transaction's check (R145, R146, R154). -/
theorem commitWrite_eq (s : State) (g : Target) :
    s.commitWrite g =
      { s with
        status := { s.status with
          sstate := if g = .slot ∧ ¬ s.seq.slot < 16 then .terminated else s.status.sstate }
        seq :=
          match g with
          | .scanKey =>
            if cfgPvar s.latchedCfg then
              { s.seq with phase := .writeDesc .slot, sent := 0, slot := 1 }
            else { s.seq with phase := .writeDesc .mask, sent := 0 }
          | .mask => { s.seq with phase := .writeDesc .slot, sent := 0, slot := 1 }
          | .slot =>
            if s.seq.slot < 16 then
              { s.seq with
                phase := .writeDesc .slot, sent := 0, slot := s.seq.slot + 1,
                doneSlots := s.seq.doneSlots + 1 }
            else
              { s.seq with
                phase := .termSend, sent := 0, slot := 0, doneSlots := s.seq.doneSlots + 1 } } := by
  cases g with
  | scanKey =>
    by_cases h : cfgPvar s.latchedCfg = true
    · simp only [if_pos h]
      exact if_pos h
    · simp only [if_neg h]
      exact if_neg h
  | mask => rfl
  | slot =>
    rw [State.commitWrite, countSlot_nextSlot_eq]
    simp only [true_and, ite_not]

/-- Every write transaction has data (R143, R144, R145). -/
theorem writeBytesOf_length_ne_zero (s : State) (g : Target) : (s.writeBytesOf g).length ≠ 0 := by
  cases g with
  | scanKey =>
    obtain ⟨_, _, _, hlen, _⟩ := wire_spec s.params
    exact Nat.one_le_iff_ne_zero.1 hlen
  | mask => exact two_ne_zero
  | slot => simp [State.writeBytesOf]

/-- Settles O42: the transaction up to its check, then what follows the check. -/
theorem writeTransactionRuns : Obligations.WriteTransactionRuns := by
  intro s g a d q ha hd hs hslot hk hdev
  have ⟨_, _, hp, h0⟩ := hs
  have haddr : a = s.writeAddrOf g := by cases g <;> exact ha
  have hdata : d = s.writeBytesOf g := by
    cases g with
    | slot => exact hd.trans (readRecordOf_eq_map s.mem s.seq.slot).symm
    | _ => exact hd
  rw [haddr, hdata, steps_writeTransaction hs hk (writeBytesOf_length_ne_zero s g) hdev,
    commitWrite_eq]
  simp only [writeEvents, List.append_assoc]
  cases g <;> simp [hp, h0]

end Sys2Proof.Machine

/-! SUPPORT. Whole sessions against a device that answers every check rightly (R153, R154): the loop
over the sixteen slots and the termination sequence after it, for reads and for writes. -/

namespace Sys2Proof.Machine

open Sys2Proof.Config

/-! ## Runs of some length -/

/-- Some number of steps leads from `s` to `t`. -/
def State.Reaches (s t : State) : Prop := ∃ k, steps k s = .next t

theorem State.Reaches.refl (s : State) : s.Reaches s := ⟨0, steps_zero s⟩

theorem State.Reaches.trans {s t u : State} (h : s.Reaches t) (h' : t.Reaches u) : s.Reaches u := by
  obtain ⟨j, hj⟩ := h
  obtain ⟨k, hk⟩ := h'
  exact ⟨j + k, steps_append hj hk⟩

/-- What each slot in turn keeps up leads from before the first to after the sixteenth. -/
theorem reaches_all_slots {I : Nat → State → Prop}
    (hnext : ∀ (i : SlotIx) (t : State), I i.val t → ∃ u, t.Reaches u ∧ I (i.val + 1) u)
    {s : State} (h0 : I 0 s) : ∃ u, s.Reaches u ∧ I 16 u := by
  have hall : ∀ n, n ≤ 16 → ∃ u, s.Reaches u ∧ I n u := by
    intro n
    induction n with
    | zero => exact fun _ => ⟨s, .refl s, h0⟩
    | succ n ih =>
      intro hn
      obtain ⟨t, hst, ht⟩ := ih (by omega)
      obtain ⟨u, htu, hu⟩ := hnext ⟨n, hn⟩ t ht
      exact ⟨u, hst.trans htu, hu⟩
  exact hall 16 le_rfl

/-! ## A termination that is confirmed -/

/-- What a session that ends well leaves: its outcome and, of what it does not report, TBL, IMG and
ACTMASK as they stood before the termination sequence (R149, R150). -/
structure State.EndsWell (s : State) (q : List DevAnswer) (u : State) : Prop where
  busy : u.status.busy = false
  done : u.status.done = true
  err : u.status.err = false
  sstate : u.status.sstate = .terminated
  link : u.status.link = false
  res : u.res = BitVec.ofNat 32 s.seq.doneSlots
  devQueue : u.devQueue = q
  actMask : u.actMask = s.actMask
  mem : u.mem = s.mem
  trace : u.trace = s.trace ++ terminationEvents s.par

theorem exists_endsWell {s : State} {q : List DevAnswer} (hs : atPhase s .termSend)
    (he : s.seq.error = none) (hk : s.status.sstate = .terminated)
    (hd : s.devQueue = .present [conf ^^^ s.par.k2] :: q) :
    ∃ u, s.Reaches u ∧ s.EndsWell q u := by
  obtain ⟨u, hsteps, htrace, hres, -, hdev, hmem, hmask, -, hok, -⟩ :=
    successPathChecksTermination s _ q hs he hd
  obtain ⟨-, hstatus⟩ := hok (congrArg some (getD_xor_self conf s.par.k2))
  exact ⟨u, ⟨3, hsteps⟩,
    { busy := by rw [hstatus]
      done := by rw [hstatus]
      err := by rw [hstatus]
      sstate := by rw [hstatus]; exact hk
      link := by rw [hstatus]
      res := hres, devQueue := hdev, actMask := hmask, mem := hmem, trace := htrace }⟩

/-! ## The loop over the slots -/

/-- The sequencer's position once `n` slots are done: the start of the next slot's transaction, or
the termination sequence (R146). -/
def loopSeq (op : Option (BitVec 8)) (p : SeqPhase) (n : Nat) : Seq :=
  if n < 16 then { op := op, phase := p, sent := 0, slot := n + 1, doneSlots := n, error := none }
  else { op := op, phase := .termSend, sent := 0, slot := 0, doneSlots := n, error := none }

theorem loopSeq_slot (op : Option (BitVec 8)) (p : SeqPhase) (i : SlotIx) :
    loopSeq op p i.val =
      { op := op, phase := p, sent := 0, slot := i.val + 1, doneSlots := i.val, error := none } :=
  if_pos i.isLt

/-- The loop that began in `s`, with `n` slots done: slot `i` takes the answers `ans i` and performs
the events `ev i`, and the answers `q` come after the loop. -/
structure State.SlotLoop (s : State) (p : SeqPhase) (ans : SlotIx → List DevAnswer)
    (ev : SlotIx → List Event) (q : List DevAnswer) (n : Nat) (t : State) : Prop where
  params : t.params = s.params
  actMask : t.actMask = s.actMask
  host : t.hostQueue = []
  busy : t.status.busy = true
  sstate : if n < 16 then t.status.sstate = .active ∨ t.status.sstate = .keyExchanged
    else t.status.sstate = .terminated
  seq : t.seq = loopSeq s.seq.op p n
  devQueue : t.devQueue = ((allSlots.drop n).map ans).flatten ++ q
  trace : t.trace = s.trace ++ ((allSlots.take n).map ev).flatten

section

variable {s t u : State} {p : SeqPhase} {ans : SlotIx → List DevAnswer} {ev : SlotIx → List Event}
  {q : List DevAnswer} {i : SlotIx}

theorem State.SlotLoop.seq_eq (h : s.SlotLoop p ans ev q i.val t) :
    t.seq =
      { op := s.seq.op, phase := p, sent := 0, slot := i.val + 1, doneSlots := i.val,
        error := none } :=
  h.seq.trans (loopSeq_slot _ _ _)

theorem State.SlotLoop.atPhase (h : s.SlotLoop p ans ev q i.val t) : atPhase t p :=
  ⟨h.host, h.busy, by rw [h.seq_eq], by rw [h.seq_eq]⟩

theorem State.SlotLoop.slot_eq (h : s.SlotLoop p ans ev q i.val t) : t.seq.slot = i.val + 1 := by
  rw [h.seq_eq]

theorem State.SlotLoop.par_eq {n : Nat} (h : s.SlotLoop p ans ev q n t) : t.par = s.par :=
  congrArg BlockParams.raw h.params

/-- Slot `i`'s answers come next, then those of the slots after it. -/
theorem State.SlotLoop.devQueue_eq (h : s.SlotLoop p ans ev q i.val t) :
    t.devQueue = ans i ++ (((allSlots.drop (i.val + 1)).map ans).flatten ++ q) := by
  have hdrop : ∀ j : SlotIx, allSlots.drop j.val = j :: allSlots.drop (j.val + 1) := by decide
  rw [h.devQueue, hdrop]
  simp

/-- The loop after slot `i`'s transaction. -/
theorem State.SlotLoop.advance (h : s.SlotLoop p ans ev q i.val t) (hparams : u.params = t.params)
    (hmask : u.actMask = t.actMask) (hhost : u.hostQueue = t.hostQueue)
    (hbusy : u.status.busy = t.status.busy)
    (hsstate : u.status.sstate = if t.seq.slot < 16 then .active else .terminated)
    (hseq : u.seq =
      if t.seq.slot < 16 then
        { t.seq with slot := t.seq.slot + 1, doneSlots := t.seq.doneSlots + 1 }
      else { t.seq with phase := .termSend, slot := 0, doneSlots := t.seq.doneSlots + 1 })
    (hdev : u.devQueue = ((allSlots.drop (i.val + 1)).map ans).flatten ++ q)
    (htrace : u.trace = t.trace ++ ev i) : s.SlotLoop p ans ev q (i.val + 1) u where
  params := hparams.trans h.params
  actMask := hmask.trans h.actMask
  host := hhost.trans h.host
  busy := hbusy.trans h.busy
  sstate := by
    rw [hsstate, h.slot_eq]
    split <;> simp
  seq := by
    rw [hseq, h.seq_eq, loopSeq]
  devQueue := hdev
  trace := by
    have htake : ∀ j : SlotIx, allSlots.take (j.val + 1) = allSlots.take j.val ++ [j] := by decide
    rw [htrace, h.trace, htake]
    simp

/-- The loop's end and the termination sequence (R146, R149). -/
theorem State.SlotLoop.endsWell
    (h : s.SlotLoop p ans ev (.present [conf ^^^ s.par.k2] :: q) 16 t) :
    ∃ u, t.Reaches u ∧ t.EndsWell q u := by
  have hdev : t.devQueue = .present [conf ^^^ t.par.k2] :: q := by
    rw [h.par_eq]
    exact h.devQueue
  exact exists_endsWell ⟨h.host, h.busy, by rw [h.seq]; rfl, by rw [h.seq]; rfl⟩
    (by rw [h.seq]; rfl) h.sstate hdev

end

/-! ## RDALL -/

/-- DEV's answers to the read transaction of a slot: its block and the confirmation. -/
def readAnswers (p : Params) (d : SlotIx → List Byte) (i : SlotIx) : List DevAnswer :=
  [.present (d i), .present [conf ^^^ p.k2]]

/-- The loop of reads with `n` slots done: their records are the decrypted blocks, and TBL is as it
was (R139, R153). -/
structure State.ReadLoop (s : State) (d : SlotIx → List Byte) (q : List DevAnswer) (n : Nat)
    (t : State) : Prop extends
    s.SlotLoop .readDesc (readAnswers s.par d) (fun i => readEvents s.par (i.val + 1) (d i)) q n t
    where
  image : ∀ i : SlotIx, i.val < n → ∀ k, k < 32 →
    t.mem.read (0x200 + 32 * i.val + k) = (d i).getD k 0 ^^^ s.par.k2
  table : ∀ a, a < 0x200 → t.mem.read a = s.mem.read a

/-- A slot's read transaction takes the loop to the next slot (`readTransactionStoresRecord`). -/
theorem State.ReadLoop.next {s t : State} {d : SlotIx → List Byte} {q : List DevAnswer} {i : SlotIx}
    (h : s.ReadLoop d q i.val t) : ∃ u, t.Reaches u ∧ s.ReadLoop d q (i.val + 1) u := by
  have hpar := h.par_eq
  have hslot := h.slot_eq
  have hi := i.isLt
  have hk := h.sstate
  rw [if_pos hi] at hk
  have hdev : t.devQueue = .present (d i) :: .present [conf ^^^ t.par.k2] ::
      (((allSlots.drop (i.val + 1)).map (readAnswers s.par d)).flatten ++ q) := by
    rw [hpar]
    exact h.devQueue_eq
  obtain ⟨m, hsteps, hin, hout⟩ := readTransactionStoresRecord t (d i) _ h.atPhase
    (by omega) (by omega) hk hdev
  rw [hslot, Nat.add_sub_cancel] at hin hout
  refine ⟨_, ⟨_, hsteps⟩, h.toSlotLoop.advance rfl rfl rfl rfl rfl rfl rfl ?_, fun j hj k hk => ?_,
    fun a ha => (hout a (by omega)).trans (h.table a ha)⟩
  · rw [← hpar, ← hslot]
    simp only [readEvents, List.append_assoc]
    rfl
  · by_cases hji : j = i
    · rw [hji, ← hpar]
      exact hin k hk
    · have hne : j.val ≠ i.val := fun hv => hji (Fin.ext hv)
      exact (hout _ (by omega)).trans (h.image j (by omega) k hk)

/-- A run that has come to slot 1's read goes on through the sixteen reads and the termination
sequence (R146, R149). -/
theorem State.Reaches.readsAll {r s : State} {d : SlotIx → List Byte} {q : List DevAnswer}
    (hrun : r.Reaches s) (hq : s.hostQueue = []) (hb : s.status.busy = true)
    (hk : s.status.sstate = .active ∨ s.status.sstate = .keyExchanged)
    (hseq : s.seq = loopSeq s.seq.op .readDesc 0)
    (hd : s.devQueue = (allSlots.map (readAnswers s.par d)).flatten ++
      .present [conf ^^^ s.par.k2] :: q) :
    ∃ t u, r.Reaches u ∧ s.ReadLoop d (.present [conf ^^^ s.par.k2] :: q) 16 t ∧
      t.EndsWell q u := by
  have hstart : s.ReadLoop d (.present [conf ^^^ s.par.k2] :: q) 0 s :=
    { params := rfl, actMask := rfl, host := hq, busy := hb, sstate := hk, seq := hseq,
      devQueue := hd, trace := (List.append_nil _).symm,
      image := fun _ h => absurd h (Nat.not_lt_zero _), table := fun _ _ => rfl }
  obtain ⟨t, hloop, ht⟩ := reaches_all_slots (fun _ _ h => h.next) hstart
  obtain ⟨u, hterm, hu⟩ := ht.toSlotLoop.endsWell
  exact ⟨t, u, (hrun.trans hloop).trans hterm, ht, hu⟩

/-- Settles O51: the handshake, the loop of reads and the termination sequence. -/
theorem rdallReadsAllSixteenRecords : Obligations.RdallReadsAllSixteenRecords := by
  intro s t d dI dR q hexec hq hop hdev
  obtain rfl := Host.Outcome.next.inj ((exec_rdall s).symm.trans hexec)
  simp only [List.append_assoc] at hdev
  have hshake := handshakeRuns s.latchSession.beginHandshake dI dR _ ⟨hq, rfl, rfl, rfl⟩ hdev
  rw [if_pos (show s.latchSession.beginHandshake.seq.op = _ from hop)] at hshake
  obtain ⟨t, u, ⟨k, hk⟩, ht, hu⟩ :=
    State.Reaches.readsAll (d := d) (q := q) ⟨_, hshake⟩ hq rfl (.inr rfl) rfl rfl
  refine ⟨k, u, hk, hu.busy, hu.done, hu.err, hu.sstate, hu.link, ?_, hu.devQueue,
    hu.actMask.trans ht.actMask, ?_, fun i k hk => ?_, fun a ha => ?_⟩
  · rw [hu.res, ht.seq]; rfl
  · rw [hu.trace, ht.par_eq, ht.trace]; rfl
  · rw [hu.mem]; exact ht.image i i.isLt k hk
  · rw [hu.mem]; exact ht.table a ha

/-! ## WRALL -/

/-- The loop of slot writes with `n` slots done: TBL and IMG are as they were (R143, R154). -/
structure State.WriteLoop (s : State) (q : List DevAnswer) (n : Nat) (t : State) : Prop extends
    s.SlotLoop (.writeDesc .slot) (fun _ => [.present [conf ^^^ s.par.k2]])
      (fun i => writeEvents s.par (slotAddr s.par (i.val + 1)) (readRecord s.mem i)) q n t
    where
  mem : t.mem = s.mem

/-- A slot's write transaction takes the loop to the next slot. -/
theorem State.WriteLoop.next {s t : State} {q : List DevAnswer} {i : SlotIx}
    (h : s.WriteLoop q i.val t) : ∃ u, t.Reaches u ∧ s.WriteLoop q (i.val + 1) u := by
  have hslot := h.slot_eq
  have hk := h.sstate
  rw [if_pos i.isLt] at hk
  have hdev : t.devQueue = .present [conf ^^^ t.par.k2] ::
      (((allSlots.drop (i.val + 1)).map fun _ => [.present [conf ^^^ s.par.k2]]).flatten ++ q) := by
    rw [h.par_eq]
    exact h.devQueue_eq
  have hi := i.isLt
  have hrun := writeTransactionRuns t .slot _ _ _ rfl rfl h.atPhase (fun _ => by omega) hk hdev
  refine ⟨_, ⟨_, hrun⟩, h.toSlotLoop.advance rfl rfl rfl rfl ?_ rfl rfl ?_, h.mem⟩
  · simp only [true_and, ite_not]
  · have hrec : readRecord s.mem i =
        (List.range 32).map fun k => t.mem.read (0x200 + 32 * (t.seq.slot - 1) + k) := by
      rw [readRecord, SlotIx.number, ← hslot, ← h.mem, readRecordOf_eq_map]
    rw [hrec, ← h.par_eq, ← hslot]
    simp only [writeEvents, List.append_assoc]
    rfl

/-- The scan-toggle write, and the bitmask write in a legacy session only, lead to slot 1's write
(R144, R145, R154). -/
theorem reaches_slotWrites {s : State} {q : List DevAnswer} (hs : atPhase s (.writeDesc .scanKey))
    (hk : s.status.sstate = .active ∨ s.status.sstate = .keyExchanged)
    (hd : s.devQueue = List.replicate (if cfgPvar s.latchedCfg then 1 else 2)
      (.present [conf ^^^ s.par.k2]) ++ q) :
    s.Reaches
      { s with
        devQueue := q
        status := { s.status with sstate := .active }
        trace := s.trace ++ (writeEvents s.par s.par.scanKeyAddr s.par.scanKeyData ++
          if cfgPvar s.latchedCfg then []
          else writeEvents s.par s.par.maskAddr (maskBytes s.actMask))
        seq := { s.seq with phase := .writeDesc .slot, sent := 0, slot := 1 } } := by
  have ⟨hq, hb, _, _⟩ := hs
  by_cases hv : cfgPvar s.latchedCfg = true
  · rw [if_pos hv] at hd
    have hkey := steps_writeTransaction hs hk (writeBytesOf_length_ne_zero s .scanKey) hd
    rw [State.commitWrite, if_pos (by exact hv)] at hkey
    refine ⟨_, hkey.trans ?_⟩
    rw [if_pos hv, List.append_nil]
    rfl
  · rw [if_neg hv] at hd
    have hkey := steps_writeTransaction hs hk (writeBytesOf_length_ne_zero s .scanKey) hd
    rw [State.commitWrite, if_neg (by exact hv)] at hkey
    refine ⟨_, (steps_append hkey (steps_writeTransaction (g := .mask) ⟨hq, hb, rfl, rfl⟩ (.inl rfl)
      (writeBytesOf_length_ne_zero _ .mask) rfl)).trans ?_⟩
    rw [if_neg hv, ← List.append_assoc]
    rfl

/-- A run that has come to slot 1's write goes on through the sixteen slot writes and the
termination sequence (R146, R149). -/
theorem State.Reaches.writesAll {r s : State} {q : List DevAnswer} (hrun : r.Reaches s)
    (hq : s.hostQueue = []) (hb : s.status.busy = true)
    (hk : s.status.sstate = .active ∨ s.status.sstate = .keyExchanged)
    (hseq : s.seq = loopSeq s.seq.op (.writeDesc .slot) 0)
    (hd : s.devQueue = List.replicate 17 (.present [conf ^^^ s.par.k2]) ++ q) :
    ∃ t u, r.Reaches u ∧ s.WriteLoop (.present [conf ^^^ s.par.k2] :: q) 16 t ∧
      t.EndsWell q u := by
  have hstart : s.WriteLoop (.present [conf ^^^ s.par.k2] :: q) 0 s :=
    { params := rfl, actMask := rfl, host := hq, busy := hb, sstate := hk, seq := hseq,
      devQueue := hd, trace := (List.append_nil _).symm, mem := rfl }
  obtain ⟨t, hloop, ht⟩ := reaches_all_slots (fun _ _ h => h.next) hstart
  obtain ⟨u, hterm, hu⟩ := ht.toSlotLoop.endsWell
  exact ⟨t, u, (hrun.trans hloop).trans hterm, ht, hu⟩

/-- Settles O52: the encode, the handshake, the writes before the loop, the loop of slot writes and
the termination sequence. -/
theorem wrallWritesAllSixteenRecords : Obligations.WrallWritesAllSixteenRecords := by
  intro s t dI dR q hexec hbusy hq hop hdev
  rcases encodeTable_cases s.par s.cfg s.mem with ⟨_, rs, henc, _⟩ | ⟨i, fld, _, _, henc⟩
  · obtain rfl := Host.Outcome.next.inj ((exec_wrall_ok henc).symm.trans hexec)
    have hcount : (if cfgPvar s.cfg then 18 else 19) = (if cfgPvar s.cfg then 1 else 2) + 17 := by
      split <;> rfl
    rw [hcount, List.replicate_add, List.append_assoc, List.append_assoc] at hdev
    have hwrite : ¬ (s.storeImage rs).latchSession.beginHandshake.seq.op = some 0x20 := fun h =>
      absurd (hop.symm.trans h) (by decide)
    have hshake := handshakeRuns (s.storeImage rs).latchSession.beginHandshake dI dR _
      ⟨hq, rfl, rfl, rfl⟩ hdev
    rw [if_neg hwrite] at hshake
    obtain ⟨t, u, ⟨k, hk⟩, ht, hu⟩ := State.Reaches.writesAll (q := q)
      (State.Reaches.trans ⟨_, hshake⟩ (reaches_slotWrites ⟨hq, rfl, rfl, rfl⟩ (.inr rfl) rfl))
      hq rfl (.inl rfl) rfl rfl
    refine ⟨k, u, hk, hu.busy, hu.done, hu.err, hu.sstate, hu.link, ?_, hu.devQueue,
      hu.mem.trans ht.mem, hu.actMask.trans ht.actMask, ?_⟩
    · rw [hu.res, ht.seq]; rfl
    · rw [hu.trace, ht.par_eq, ht.trace]
      simp only [List.append_assoc]
      rfl
  · obtain rfl := Host.Outcome.next.inj ((exec_wrall_error henc).symm.trans hexec)
    cases hbusy

end Sys2Proof.Machine

/-! SUPPORT. The block between commands (R171, R174), and what an error's capture writes (R161). -/

namespace Sys2Proof.Machine

/-- Settles O5: with nothing pending, and in a wait, the step is SEQ's, and SEQ does nothing while no
command runs. -/
theorem idleBlockPerformsNoStep : Obligations.IdleBlockPerformsNoStep := by
  intro s hb
  refine ⟨fun hq => ?nothing, fun rest hq => ?wait⟩
  case nothing => rw [step_nil hq, seqStep_idle hb]
  case wait => rw [step_wait hq, seqStep_idle (by exact hb)]

/-- STATUS[7:4] is the code of ECODE (R13). -/
theorem status_toWord_ecode (st : Status) :
    st.toWord.extractLsb' 4 4 = ecodeField st.ecode := by
  obtain ⟨_, _, _, _, hecode, _⟩ := status_toWord_bits st
  exact extractLsb'_eq_of_getLsbD hecode

/-- Settles O54: the capture is the model's own record update, and STATUS[7:4] is the code of the
error captured, which is R158's for each kind of error. -/
theorem endWithErrorCaptures : Obligations.EndWithErrorCaptures := by
  intro s f
  refine ⟨rfl, ?code⟩
  case code =>
    rw [status_toWord_ecode, endWithError_status, errored_ecode]
    cases f.kind <;> rfl

end Sys2Proof.Machine

/-! SUPPORT. Every session comes to its end (R180): each step of SEQ that does not end the session
leaves fewer phases to go through, or the same phase with fewer bytes of its frame to send. -/

namespace Sys2Proof.Machine

open Sys2Proof.Config

/-! ## What a session still has to do -/

/-- At most how many phases a session goes through from the phase of this transaction's confirmed
check on: 3 for the termination sequence, 4 for each transaction to come (R139, R142, R146). -/
def Target.phasesAfter (slot : Nat) : Target → Nat
  | .slot => 3 + 4 * (16 - slot)
  | .mask => 3 + 4 * 16
  | .scanKey => 3 + 4 * 17

/-- At most how many phases a session goes through from the start of this one on, the channel loop
being at `slot`: the handshake's phases in their order (R132), before the first transaction of a
write session, then the phases of each transaction, then the termination sequence (R147). -/
def SeqPhase.phasesLeft (slot : Nat) : SeqPhase → Nat
  | .openLink => 89
  | .progReq => 88
  | .listen => 87
  | .baud => 86
  | .echo0 => 85
  | .verReq => 84
  | .ident => 83
  | .keySend => 82
  | .conf1 => 81
  | .conf1Echo => 80
  | .mark => 79
  | .resp => 78
  | .conf2 => 77
  | .conf2Echo => 76
  | .readDesc => Target.slot.phasesAfter slot + 4
  | .readData => Target.slot.phasesAfter slot + 3
  | .readAck => Target.slot.phasesAfter slot + 2
  | .readCheck => Target.slot.phasesAfter slot + 1
  | .writeDesc g => g.phasesAfter slot + 4
  | .writeData g => g.phasesAfter slot + 3
  | .writeSum g => g.phasesAfter slot + 2
  | .writeCheck g => g.phasesAfter slot + 1
  | .termSend => 3
  | .termCheck => 2
  | .termClose => 1
  | .idle => 0

theorem phasesAfter_bounds (slot : Nat) (g : Target) :
    3 ≤ g.phasesAfter slot ∧ g.phasesAfter slot ≤ 71 := by
  cases g <;> simp only [Target.phasesAfter] <;> omega

/-- The phases left to the sequencer where it stands. -/
def State.phasesLeft (s : State) : Nat := s.seq.phase.phasesLeft s.seq.slot

/-- The bytes of the frame under way that are not yet sent. -/
def State.bytesLeft (s : State) : Nat := (s.frame s.seq.phase).length - s.seq.sent

/-- What a session still has to do: the phases left and, among states at the same phase, the bytes
left of its frame. -/
def State.workLeft (s : State) : Nat ×ₗ Nat := toLex (s.phasesLeft, s.bytesLeft)

theorem workLeft_lt_of_phasesLeft {s t : State} (h : t.phasesLeft < s.phasesLeft) :
    t.workLeft < s.workLeft := Prod.Lex.toLex_lt_toLex.2 (.inl h)

theorem workLeft_lt_of_bytesLeft {s t : State} (hp : t.phasesLeft = s.phasesLeft)
    (hb : t.bytesLeft < s.bytesLeft) : t.workLeft < s.workLeft :=
  Prod.Lex.toLex_lt_toLex.2 (.inr ⟨hp, hb⟩)

/-- What HOST has pending is no work of the session's. -/
theorem workLeft_withQueue (s : State) (r : List HostAct) :
    (s.withQueue r).workLeft = s.workLeft := by
  have hf : (s.withQueue r).frame s.seq.phase = s.frame s.seq.phase :=
    frame_congr rfl rfl rfl rfl rfl _
  exact congrArg (fun f : List Byte => toLex (s.phasesLeft, f.length - s.seq.sent)) hf

@[simp] theorem activate_workLeft (s : State) : s.activate.workLeft = s.workLeft := by
  simp [State.workLeft, State.phasesLeft, State.bytesLeft]

/-! ## OPEN is where the most is left -/

theorem workLeft_openLink {s : State} (hp : s.seq.phase = .openLink) :
    s.workLeft = toLex (89, 0) := by
  simp [State.workLeft, State.phasesLeft, State.bytesLeft, hp, SeqPhase.phasesLeft, State.frame]

theorem phasesLeft_lt_openLink {p : SeqPhase} (hp : p ≠ .openLink) (slot : Nat) :
    p.phasesLeft slot < 89 := by
  cases p
  case openLink => exact absurd rfl hp
  case readDesc | readData | readAck | readCheck =>
    have := phasesAfter_bounds slot .slot
    simp only [SeqPhase.phasesLeft]
    omega
  case writeDesc g | writeData g | writeSum g | writeCheck g =>
    have := phasesAfter_bounds slot g
    simp only [SeqPhase.phasesLeft]
    omega
  all_goals simp [SeqPhase.phasesLeft]

theorem workLeft_le (s : State) : s.workLeft ≤ toLex (89, 0) := by
  by_cases hp : s.seq.phase = .openLink
  · exact (workLeft_openLink hp).le
  · exact (Prod.Lex.toLex_lt_toLex.2 (.inl (phasesLeft_lt_openLink hp s.seq.slot))).le

/-- No session that goes on comes back to OPEN. -/
theorem phase_ne_openLink_of_workLeft_lt {s t : State} (h : t.workLeft < s.workLeft) :
    t.seq.phase ≠ .openLink := fun hp =>
  absurd (workLeft_openLink hp ▸ h) (workLeft_le s).not_gt

/-! ## What follows leaves less -/

/-- A frame sent whole leaves its phase behind. -/
theorem phasesLeft_afterFrame (s : State) {p : SeqPhase} (hp : p.sends = true) (slot : Nat) :
    (s.afterFrame p).phasesLeft slot < p.phasesLeft slot := by
  cases p
  case mark => simp only [State.afterFrame, State.afterMark]; split <;> simp [SeqPhase.phasesLeft]
  case progReq | verReq | keySend | conf1 | conf2 | readDesc | readAck | writeDesc | writeData
      | writeSum | termSend => exact Nat.lt_succ_self _
  all_goals cases hp

/-- A step of the sending of a frame: a byte less is left, or a phase less. -/
theorem sendFrame_workLeft {s : State} (hp : s.seq.phase.sends = true) :
    (s.sendFrame s.seq.phase).workLeft < s.workLeft := by
  have hafter := phasesLeft_afterFrame s hp s.seq.slot
  have hframe : ∀ e n, State.frame { s with trace := e, seq := { s.seq with sent := n } }
      s.seq.phase = s.frame s.seq.phase := fun _ _ => frame_congr rfl rfl rfl rfl rfl _
  rcases sendFrame_cases s s.seq.phase with ⟨_, _, hmore, h⟩ | ⟨_, _, _, h⟩ | ⟨_, h⟩ <;> rw [h]
  · refine workLeft_lt_of_bytesLeft rfl ?_
    simp only [State.bytesLeft, hframe]
    omega
  · exact workLeft_lt_of_phasesLeft hafter
  · exact workLeft_lt_of_phasesLeft hafter

/-- The failure path begins with the termination sequence (R148). -/
@[simp] theorem fail_phasesLeft (s : State) (f : Failure) : (s.fail f).phasesLeft = 3 := rfl

@[simp] theorem goto_phasesLeft (s : State) (p : SeqPhase) :
    (s.goto p).phasesLeft = p.phasesLeft s.seq.slot := rfl

theorem check_phasesLeft {s : State} {key : Byte} {ph : ErrPhase} {slot n : Nat}
    {pass : State → State} (hn : 3 < n) (hpass : (pass (s.afterRx 1)).phasesLeft < n) :
    (s.check key ph slot pass).phasesLeft < n := by
  rcases check_cases s key ph slot pass with ⟨_, _, _, h⟩ | ⟨_, h⟩ | ⟨_, _, _, h⟩ <;> rw [h]
  · exact hpass
  · exact hn
  · exact hn

theorem receive_phasesLeft {s : State} {len : Nat} {ph : ErrPhase} {slot n : Nat}
    {pass : List Byte → State → State} (hn : 3 < n)
    (hpass : ∀ bs, (pass bs (s.afterRx len)).phasesLeft < n) :
    (s.receive len ph slot pass).phasesLeft < n := by
  rcases receive_cases s len ph slot pass with ⟨bs, _, h⟩ | ⟨_, h⟩ <;> rw [h]
  · exact hpass bs
  · exact hn

theorem stepOpen_phasesLeft {s : State} (ha : s.openAnswer = true) :
    s.stepOpen.phasesLeft = 88 := by
  rcases stepOpen_cases s with ⟨_, h⟩ | ⟨hn, _⟩
  · rw [h]; rfl
  · rw [ha] at hn; cases hn

theorem stepListen_phasesLeft (s : State) : s.stepListen.phasesLeft < 87 := by
  rcases stepListen_cases s with ⟨_, _, _, h⟩ | ⟨_, h⟩ | ⟨_, _, _, h⟩ <;>
    simp [h, SeqPhase.phasesLeft]

theorem stepTermCheck_phasesLeft (s : State) : s.stepTermCheck.phasesLeft = 1 := by
  rcases stepTermCheck_cases s with ⟨_, h⟩ | ⟨_, _, _, _, h⟩ | ⟨_, _, _, h⟩ <;> rw [h] <;> rfl

/-- The first transaction is slot 1's read or the scan-toggle write (R153, R154). -/
theorem firstTransaction_phasesLeft (s : State) : s.firstTransaction.phasesLeft < 76 := by
  unfold State.firstTransaction
  split <;> simp [SeqPhase.phasesLeft, Target.phasesAfter]

/-- After a slot's transaction the next slot's is the fourth phase back, and after slot 16 the
termination sequence follows (R146). -/
theorem nextSlot_phasesLeft (s : State) {p : SeqPhase}
    (hp : ∀ slot, p.phasesLeft slot = Target.slot.phasesAfter slot + 4) :
    (s.nextSlot p).phasesLeft < Target.slot.phasesAfter s.seq.slot + 1 := by
  rcases nextSlot_cases s p with ⟨hlt, h⟩ | ⟨_, h⟩ <;> rw [h]
  · show p.phasesLeft (s.seq.slot + 1) < _
    rw [hp]
    simp only [Target.phasesAfter]
    omega
  · show 3 < _
    simp only [Target.phasesAfter]
    omega

theorem commitWrite_phasesLeft (s : State) (g : Target) :
    (s.commitWrite g).phasesLeft < g.phasesAfter s.seq.slot + 1 := by
  cases g with
  | scanKey =>
    simp only [State.commitWrite]
    split <;> simp [SeqPhase.phasesLeft, Target.phasesAfter]
  | mask => exact Nat.lt_succ_self _
  | slot => exact nextSlot_phasesLeft s.countSlot fun _ => rfl

theorem afterReadData_phasesLeft (s : State) (slot : Nat) :
    s.afterReadData.phasesLeft slot < SeqPhase.readData.phasesLeft slot := by
  unfold State.afterReadData
  split <;> simp only [SeqPhase.phasesLeft] <;> omega

/-- A phase that sends no frame is over in one step, whatever DEV answers. -/
theorem seqPhase_phasesLeft {s : State} (hsend : s.seq.phase.sends ≠ true)
    (hidle : s.seq.phase ≠ .idle) (hopen : s.seq.phase = .openLink → s.openAnswer = true)
    (hclose : s.seq.phase ≠ .termClose) :
    (s.seqPhase s.seq.phase).phasesLeft < s.seq.phase.phasesLeft s.seq.slot := by
  obtain ⟨hslot, _⟩ := phasesAfter_bounds s.seq.slot .slot
  cases hp : s.seq.phase
  case idle => exact absurd hp hidle
  case termClose => exact absurd hp hclose
  case openLink => exact (stepOpen_phasesLeft (hopen hp)).trans_lt (Nat.lt_succ_self 88)
  case listen => exact stepListen_phasesLeft s
  case baud => exact Nat.lt_succ_self 85
  case termCheck => exact (stepTermCheck_phasesLeft s).trans_lt (Nat.lt_succ_self 1)
  case echo0 | conf1Echo =>
    exact check_phasesLeft (by simp [SeqPhase.phasesLeft]) (Nat.lt_succ_self _)
  case conf2Echo =>
    exact check_phasesLeft (by simp [SeqPhase.phasesLeft]) (firstTransaction_phasesLeft _)
  case readCheck =>
    refine check_phasesLeft (Nat.lt_succ_of_le hslot) ?_
    rw [← afterRx_seq s 1]
    exact nextSlot_phasesLeft (s.afterRx 1).stageStored.countSlot fun _ => rfl
  case writeCheck g =>
    obtain ⟨hg, _⟩ := phasesAfter_bounds s.seq.slot g
    refine check_phasesLeft (Nat.lt_succ_of_le hg) ?_
    rw [← afterRx_seq s 1]
    exact commitWrite_phasesLeft (s.afterRx 1) g
  case ident | resp =>
    exact receive_phasesLeft (by simp [SeqPhase.phasesLeft]) fun _ => Nat.lt_succ_self _
  case readData =>
    refine receive_phasesLeft (Nat.lt_add_right 2 (Nat.lt_succ_of_le hslot)) fun _ => ?_
    rw [← afterRx_seq s recLen]
    exact afterReadData_phasesLeft _ _
  all_goals exact absurd (by rw [hp]; rfl) hsend

/-- Every step of SEQ that does not end the session leaves less to do. -/
theorem State.InSession.workLeft_lt {s : State} (hs : s.InSession)
    (hopen : s.seq.phase = .openLink → s.openAnswer = true) (hclose : s.seq.phase ≠ .termClose) :
    (s.seqPhase s.seq.phase).workLeft < s.workLeft := by
  by_cases hsend : s.seq.phase.sends = true
  · by_cases hk : s.status.sstate = .keyExchanged
    · have hdesc : s.seqPhase s.seq.phase = s.activate.sendFrame s.activate.seq.phase := by
        rcases phase_of_keyExchanged hs.phase hk with hp | hp <;> rw [activate_seq, hp] <;> rfl
      rw [hdesc, ← activate_workLeft s]
      exact sendFrame_workLeft (by simpa using hsend)
    · rw [seqPhase_sends hsend s hk]
      exact sendFrame_workLeft hsend
  · have hok := sessionOk_of_consistent ((inSession_iff s).1 hs).1 hs.running.busy
    exact workLeft_lt_of_phasesLeft
      (seqPhase_phasesLeft hsend (phase_ne_idle_of_sessionOk hok) hopen hclose)

/-! ## The end of a session -/

/-- HOST does nothing but poll and wait, now and later. -/
def State.HostLeaves (s : State) : Prop := ∀ a ∈ s.hostQueue, a = .poll ∨ a = .wait

/-- While HOST does nothing else the step of a session is SEQ's. -/
theorem State.HostLeaves.step {s : State} (hq : s.HostLeaves) (hb : s.status.busy = true) :
    ∃ r, step s = .next ((s.seqPhase s.seq.phase).withQueue r) ∧
      ((s.seqPhase s.seq.phase).withQueue r).HostLeaves := by
  have hkept : (s.seqPhase s.seq.phase).withQueue s.hostQueue = s.seqPhase s.seq.phase :=
    (seqPhase_withQueue s s.hostQueue s.seq.phase).symm
  cases h : s.hostQueue with
  | nil => exact ⟨s.hostQueue, by rw [hkept]; exact step_session h hb, hq⟩
  | cons a rest =>
    have hrest : ((s.seqPhase s.seq.phase).withQueue rest).HostLeaves := fun b hmem =>
      hq b (h ▸ List.mem_cons_of_mem a hmem)
    rcases hq a (h ▸ List.mem_cons_self) with rfl | rfl
    · exact ⟨s.hostQueue, by rw [hkept]; exact step_session_poll h hb, hq⟩
    · exact ⟨rest, step_session_wait h hb, hrest⟩

/-- A session is over: the command is done, the transport closed and the key discarded (R150, R151,
R152). -/
structure State.SessionOver (s : State) : Prop where
  busy : s.status.busy = false
  done : s.status.done = true
  link : s.status.link = false
  baudHi : s.status.baudHi = false
  k1s : s.k1s = 0

theorem State.SessionOver.withQueue {s : State} (h : s.SessionOver) (r : List HostAct) :
    (s.withQueue r).SessionOver := ⟨h.busy, h.done, h.link, h.baudHi, h.k1s⟩

theorem failUnopened_sessionOver (s : State) (f : Failure) : (s.failUnopened f).SessionOver :=
  ⟨rfl, rfl, rfl, rfl, rfl⟩

theorem stepTermClose_sessionOver (s : State) : s.stepTermClose.SessionOver := by
  rcases stepTermClose_cases s with ⟨_, _, h⟩ | ⟨_, h⟩ <;> rw [h] <;>
    exact ⟨rfl, rfl, rfl, rfl, rfl⟩

/-- What HOST has pending is no part of the invariant. -/
theorem State.InSession.withQueue {s : State} (hs : s.InSession) (r : List HostAct) :
    (s.withQueue r).InSession :=
  ⟨hs.running, hs.stage, hs.link, hs.termFail, hs.sent, hs.phase⟩

/-- No step but that of the phase CLOSE performs CLOSE. -/
theorem State.InSession.close_not_mem {s : State} (hs : s.InSession)
    (hclose : s.seq.phase ≠ .termClose) (hnone : Event.close ∉ s.trace) :
    Event.close ∉ (s.seqPhase s.seq.phase).trace := by
  have hok := sessionOk_of_consistent ((inSession_iff s).1 hs).1 hs.running.busy
  obtain ⟨ev, hev⟩ := seqPhase_emits (phase_ne_idle_of_sessionOk hok) (sent_lt_of_sessionOk hok)
  have hne : Event.close ≠ ev := by
    rintro rfl
    rcases seqPhase_event_cases hev with ⟨_, he⟩ | ⟨_, _, he⟩ | ⟨_, he⟩ | ⟨_, he⟩ | ⟨hp, _⟩
    case inr.inr.inr.inr => exact hclose hp
    all_goals cases he
  rw [hev]
  simpa [hnone] using hne

/-- By induction on the work left: a step ends the session, by CLOSE or by an OPEN that DEV does not
answer with OK, or leaves less to do. -/
theorem State.InSession.reachesEnd {s : State} (hs : s.InSession) (hq : s.HostLeaves)
    (hnone : Event.close ∉ s.trace) :
    ∃ t, s.Reaches t ∧ t.SessionOver ∧
      (s.seq.phase ≠ .openLink → t.trace.count Event.close = 1) := by
  obtain ⟨r, hstep, hleaves⟩ := hq.step hs.running.busy
  have hone : s.Reaches ((s.seqPhase s.seq.phase).withQueue r) :=
    ⟨1, (steps_succ 0 hstep).trans (steps_zero _)⟩
  by_cases hclose : s.seq.phase = .termClose
  · rw [hclose] at hone
    refine ⟨_, hone, (stepTermClose_sessionOver s).withQueue r, fun _ => ?_⟩
    show s.stepTermClose.trace.count Event.close = 1
    rw [stepTermClose_trace, List.count_append, List.count_eq_zero_of_not_mem hnone]
    rfl
  by_cases hopen : s.seq.phase = .openLink → s.openAnswer = true
  · have hless := hs.workLeft_lt hopen hclose
    rw [← workLeft_withQueue _ r] at hless
    obtain ⟨t, hreach, hover, hcount⟩ := ((hs.seqPhase hopen hclose).withQueue r).reachesEnd hleaves
      (hs.close_not_mem hclose hnone)
    exact ⟨t, hone.trans hreach, hover, fun _ => hcount (phase_ne_openLink_of_workLeft_lt hless)⟩
  · obtain ⟨hp, ha⟩ := Classical.not_imp.1 hopen
    rcases stepOpen_cases s with ⟨h, _⟩ | ⟨_, h⟩
    · exact absurd h ha
    · have hend : s.seqPhase s.seq.phase = s.stepOpen := by rw [hp]; rfl
      rw [hend, h] at hone
      exact ⟨_, hone, (failUnopened_sessionOver _ _).withQueue r, fun hne => absurd hp hne⟩
termination_by s.workLeft
decreasing_by exact hless

/-- Settles O50: the invariant gives a running session, which comes to its end
(`State.InSession.reachesEnd`); its link is open exactly when it is past OPEN. -/
theorem everySessionEnds : Obligations.EverySessionEnds := by
  intro s hc hb hq hnone
  have hs : s.InSession := (inSession_iff s).2 ⟨hc, hb⟩
  obtain ⟨t, ⟨k, hk⟩, ⟨hbusy, hdone, hlink, hbaud, hkey⟩, hcount⟩ := hs.reachesEnd hq hnone
  refine ⟨k, t, hk, hbusy, hdone, hlink, hbaud, hkey, fun hopen => hcount ?_⟩
  simpa [hs.link] using hopen

end Sys2Proof.Machine

/-! SUPPORT. The state after reset and the reset input (R172, R173). -/

namespace Sys2Proof.Machine

theorem status_reset_toWord : Status.reset.toWord = 0 := by decide

theorem errInfo_clear_toWord : ErrInfo.clear.toWord = 0 := by decide

/-- Settles O56: the registers hold their values by definition, the two words are computed, and what
HOST reads is the map's (`hostMapReads`), the reserved bits of TBL among it. -/
theorem resetValues : Obligations.ResetValues := by
  obtain ⟨_, _, _, _, _, _, _, hk2, hmask, _, hmem, htbl⟩ := hostMapReads State.reset
  refine ⟨rfl, rfl, rfl, status_reset_toWord, errInfo_clear_toWord, rfl, rfl, hmask, hk2, rfl, rfl,
    rfl, rfl, rfl, rfl, rfl, rfl, fun i => ?reserved⟩
  case reserved =>
    have hbyte : ∀ k, k < 16 →
        State.reset.hostByte (tblAddr i + k) = State.reset.mem.read (tblAddr i + k) := fun k hk =>
      hmem _ (by simp only [tblAddr]; omega) (by simp only [tblAddr]; omega)
    obtain ⟨h13, h14, h15, h12⟩ := htbl i
    rw [← hbyte 12 (by omega), ← hbyte 13 (by omega), ← hbyte 14 (by omega), ← hbyte 15 (by omega)]
    exact ⟨h12, h13, h14, h15⟩

/-- Settles O57: the step is the reset input, which keeps the parameters and the outside's fields
and gives every other its reset value. -/
theorem resetInputAbortsSession : Obligations.ResetInputAbortsSession := fun _ _ hq =>
  ⟨_, step_reset hq, rfl, rfl, rfl, rfl, rfl, rfl, status_reset_toWord, errInfo_clear_toWord, rfl,
    rfl, rfl, rfl, rfl, rfl, rfl⟩

/-- Settles O58: the state after reset is what the reset input makes of it. -/
theorem resetIsConsistent : Obligations.ResetIsConsistent := resetInput_consistent State.reset

end Sys2Proof.Machine
